-- ==== Sys2Proof/Word.lean ====
section
/-! DEFINITION. The machine's bit vectors: an inbound or outbound byte, the 5-bit vector of the writable
signals, the 2-bit vector of the readable signals and the 6-bit burst length (spec/00_scope.md R9: every value
is unsigned, bit 0 is the least significant). -/

namespace Sys2Proof

/-- One byte of the inbound stream, of the accumulator or of a frame (R9). -/
abbrev Byte := BitVec 8

/-- One bit for each of the 5 writable signals, as in `out_latch[4:0]` (R19). -/
abbrev Levels := BitVec 5

/-- One bit for each of the 2 readable signals, as in the result of `PinSample2` (R20, R70). -/
abbrev Sample := BitVec 2

/-- A burst length or a count of remaining data bytes (R14, R60). -/
abbrev BurstLen := BitVec 6

end Sys2Proof
end

