-- ==== Sys2Proof/Config.lean ====
section
/-! DEFINITION. What an implementation fixes: the constants of spec/00_scope.md R7, the parameters of R8 as one
plain structure, and the machine's own parameters and free values, which are opaque constants where the spec
leaves them open. -/

namespace Sys2Proof

/-! ### The constants of R7 (the document's values, D29) -/

/-- `N_OUT`: how many signals are writable. -/
def nOut : Nat := 5
/-- `N_IN`: how many signals are readable. -/
def nIn : Nat := 2
/-- `REM_MAX`: the largest burst length. -/
def remMax : Nat := 63
/-- `CHUNK_MAX`: the largest inbound chunk. -/
def chunkMax : Nat := 64
/-- `FRAME_MAX`: the largest outbound frame. -/
def frameMax : Nat := 64
/-- `HDR_LEN`: the bytes of header in every frame. -/
def hdrLen : Nat := 2
/-- `PAYLOAD_MAX = FRAME_MAX - HDR_LEN`. -/
def payloadMax : Nat := frameMax - hdrLen
/-- `READ_GATE`: a chunk is read only while at most this many bytes are unsent. -/
def readGate : Nat := 64
/-- `LATENCY_MS`: the idle flush bound in milliseconds. -/
def latencyMs : Nat := 10
/-- `T_OE_SETTLE` in nanoseconds; timing only, no step reads it (R136). -/
def tOeSettleNs : Nat := 400
/-- `T_CLK_HIGH` in delay units; timing only, no step reads it (R136). -/
def tClkHighUnits : Nat := 2

/-! ### The parameters of R8 -/

/-- `OE_MODE`: how the output enable reaches the pins (R8, R74). -/
inductive OeMode where
  | aux
  | direct
deriving DecidableEq, Repr, Inhabited

/-- The two readable signals (R20): index 0 is data-in / config-done, index 1 is status. -/
inductive Input where
  | dataIn
  | status
deriving DecidableEq, Repr, Inhabited

/-- The bit of a `Sample` that a readable signal has (R20). -/
def Input.index : Input → Nat
  | .dataIn => 0
  | .status => 1

/-- Every parameter of R8. `shiftSel0` and `shiftSel1` are the two values of the function `SHIFT_SEL`;
`timerBits` is `none` for an unbounded timer (R92). -/
structure Config where
  hdr0 : Byte
  hdr1 : Byte
  pinBase : Nat
  oeMode : OeMode
  auxPin : Nat
  auxActive : Bool
  shiftSel0 : Input
  shiftSel1 : Input
  zeroLenClkLow : Bool
  resetOnUnmountSuspend : Bool
  accCap : Nat
  rxFifoCap : Nat
  timerBits : Option Nat
  tBbSetup : Nat
  tUnit : Nat
deriving DecidableEq, Repr, Inhabited

/-! ### Who moves next -/

/-- The USB lifecycle events (spec/60_exceptions.md R106). -/
inductive Lifecycle where
  | busReset
  | mount
  | resume
  | unmount
  | suspend
deriving DecidableEq, Repr, Inhabited

/-- One move of one agent (spec/00_scope.md R11): a core step of the core loop, an act of the host environment
(spec/10_state.md R33), or time that passes on the timer. The target device moves inside a sample (R70). -/
inductive Turn where
  /-- The core loop makes its next core step. -/
  | core
  /-- The host raises a lifecycle event, taken here (R107). -/
  | event (e : Lifecycle)
  /-- The host tries to append a byte to the inbound FIFO (R33, R100). -/
  | rx (b : Byte)
  /-- `link_active` takes a value (R33). -/
  | link (up : Bool)
  /-- `tx_ready` takes the value it will answer with (R33). -/
  | ready (r : Bool)
  /-- The number of bytes the next receive returns, before it is clipped to the range of R93. -/
  | receive (k : Nat)
  /-- Milliseconds pass (R92). -/
  | elapse (ms : Nat)
deriving DecidableEq, Repr, Inhabited

namespace Config

/-! ### The parameters the spec leaves OPEN: opaque constants (log 5, log 6) -/

/-- The header byte `H0` of this machine (R27: open). -/
opaque machineHdr0 : Byte
/-- The header byte `H1` of this machine (R27: open). -/
opaque machineHdr1 : Byte
/-- `PIN_BASE` of this machine (R36: open). -/
opaque machinePinBase : Nat
/-- `OE_MODE` of this machine (R8: open). -/
opaque machineOeMode : OeMode
/-- The number of the auxiliary enable pin, counted over the pins that are not the 7 signal pins (R36: open). -/
opaque machineAuxRank : Nat
/-- How many bytes `RX_FIFO_CAP` exceeds `CHUNK_MAX` by (R8: open, at least 0). -/
opaque machineRxFifoExtra : Nat
/-- `T_BB_SETUP` of this machine; timing only (R8: open). -/
opaque machineTBbSetup : Nat
/-- `T_UNIT` of this machine; timing only (R8: open). -/
opaque machineTUnit : Nat

/-- `AUX_PIN` of this machine: the `machineAuxRank`-th pin outside `PIN_BASE .. PIN_BASE + 6` (R36). -/
def machineAuxPin : Nat :=
  if machineAuxRank < machinePinBase then machineAuxRank else machineAuxRank + nOut + nIn

/-- The configuration the machine has at power-on: opaque where R8 says OPEN, the spec's value elsewhere. -/
def machine : Config where
  hdr0 := machineHdr0
  hdr1 := machineHdr1
  pinBase := machinePinBase
  oeMode := machineOeMode
  auxPin := machineAuxPin
  auxActive := true
  shiftSel0 := .status
  shiftSel1 := .dataIn
  zeroLenClkLow := true
  resetOnUnmountSuspend := false
  accCap := readGate + chunkMax
  rxFifoCap := chunkMax + machineRxFifoExtra
  timerBits := none
  tBbSetup := machineTBbSetup
  tUnit := machineTUnit

/-! ### Free values -/

/-- The target device's answer to the `k`-th sample after the listed ones: any value (R70, D25; log 2). -/
opaque freeAnswer : Nat → Sample

/-- What an accumulator byte that holds no value reads as below `acc_len`: any value. It is applied to the number of
frames sent so far and to the byte's index, so that no two frames read one value (R25, R40; log 10). -/
opaque freeAccByte : Nat → Nat → Byte

/-- Who makes the `k`-th move after the listed ones: any agent, any move (R107, R108, D14, D15, D36; log 1). -/
opaque freeTurn : Nat → Turn

end Config

end Sys2Proof
end

