-- ==== Sys2Proof/Syntax.lean ====
section
/-! DEFINITION. The instructions (one constructor per row of spec/opcode_table.json), the engine's decoding
mode and the spec's pseudo-instructions (spec/30_encoding.md R54 to R61, R67). -/

namespace Sys2Proof

/-- The engine state's tag, the only thing that changes how a byte is decoded (R13, R55). -/
inductive Mode where
  | idle
  | shiftActive
deriving DecidableEq, Repr, Inhabited

/-- One instruction is one inbound byte (R54). -/
inductive Instr where
  /-- BITBANG (R56, R59): read flag `r`, output-enable flag `o`, levels `p` of the 5 writable signals. -/
  | bitbang (r o : Bool) (p : Levels)
  /-- SHIFT (R57, R60): capture flag `c` and burst length `n`, where 0 is an empty burst (R64). -/
  | shift (c : Bool) (n : BurstLen)
  /-- DATA (R58, R61): a data byte of a burst. -/
  | data (d : Byte)
deriving DecidableEq, Repr

/-- The mode in which the decoder can give the instruction (R55; the table's `decode_state`). -/
def Instr.decodeMode : Instr → Mode
  | .bitbang _ _ _ => .idle
  | .shift _ _ => .idle
  | .data _ => .shiftActive

/-- The spec's pseudo-instructions (R67). -/
inductive Pseudo where
  /-- `SIG r oe dout cs ce mode clk` -/
  | sig (r oe dout cs ce mode clk : Bool)
  /-- `PULSE r oe p` -/
  | pulse (r oe : Bool) (p : Levels)
  /-- `SHIFTW d1..dn` -/
  | shiftw (ds : List Byte)
  /-- `SHIFTR d1..dn` -/
  | shiftr (ds : List Byte)
  /-- `CLKLOW` -/
  | clklow
deriving DecidableEq, Repr

end Sys2Proof
end

