-- ==== Sys2Proof/Machine/State.lean ====
section
/-! DEFINITION. The machine's state as plain data, in the groups of spec/10_state.md R12, the reasons a step can
stop, and the power-on state (R29, R34, spec/70_reset_and_hazards.md R123). -/

namespace Sys2Proof.Machine

/-- The busy-waits (spec/40_signal_layer.md R73). -/
inductive DelayKind where
  | oeSettle
  | bbSetup
  | clkHigh
deriving DecidableEq, Repr

/-- The signal events, the whole vocabulary of `trace` (R32). -/
inductive Event where
  /-- `W(m, v)`: one atomic write of the latch bits in `m` -/
  | w (m v : Levels)
  /-- `S2 = v`: one atomic sample of both readable pins -/
  | s2 (v : Sample)
  /-- `S1(j) = s`: one sample of readable pin `j` -/
  | s1 (j : Input) (s : Bool)
  /-- `DIR(e)` -/
  | dir (e : Bool)
  /-- `AUX(l)` -/
  | aux (l : Bool)
  /-- `DLY(k)` -/
  | dly (k : DelayKind)
  /-- `IND(e)` -/
  | ind (e : Bool)
deriving DecidableEq, Repr

/-- EngineState, a tagged union: `remaining` and `capture` exist only in `ShiftActive` (R13 to R15). -/
inductive Engine where
  | idle
  | shiftActive (remaining : BurstLen) (capture : Bool)
deriving DecidableEq, Repr

/-- The tag of the engine state (R13). -/
def Engine.mode : Engine → Mode
  | .idle => .idle
  | .shiftActive _ _ => .shiftActive

/-- The output enable and the Signal Layer's state (R17, R19, R21, R22, R24). -/
structure Pins where
  oe : Bool
  outLatch : Levels
  dir : Bool
  auxLevel : Bool
  initDone : Bool
deriving DecidableEq, Repr

/-- The accumulator's bytes (R25, R37): cells in strictly rising order of index. An unlisted index holds no
value (log 10). -/
abbrev Memory := List Host.Cell

/-- Where the core loop stands in a service tick: the places at which R107 lets an event be taken. -/
inductive Phase where
  /-- Between two ticks. -/
  | betweenTicks
  /-- Inside `process`, at a byte boundary (R81). -/
  | processing
  /-- After step 2, before steps 3 and 4 (R91). -/
  | flushing
deriving DecidableEq, Repr

/-- The Transport Adapter (R25, R26) with the transient state of the current tick (R30 (4)). -/
structure Transport where
  phase : Phase
  chunk : List Byte
  out : List Byte
  acc : Memory
  accLen : Nat
  lastFlush : Nat
deriving DecidableEq, Repr

/-- The observation logs (R31) and the ghost stream cursor (R18). -/
structure Logs where
  trace : List Event
  txlog : List (List Byte)
  consumed : Nat
deriving DecidableEq, Repr

/-- The host environment (R33), the target's coming answers (R70) and the moves to come (R107). `answers`,
`answerNo`, `turns` and `turnNo` are the model's own fields (log 1, log 2). -/
structure Env where
  rxq : List Byte
  linkActive : Bool
  txReady : Bool
  rxTake : Nat
  now : Nat
  answers : List Sample
  answerNo : Nat
  turns : List Turn
  turnNo : Nat
deriving DecidableEq, Repr

/-- The whole state (R12). `cfg` is configuration: no step changes it (log 5). -/
structure State where
  cfg : Config
  engine : Engine
  pins : Pins
  transport : Transport
  logs : Logs
  env : Env
deriving DecidableEq, Repr

/-- Why a step stops. The hardware raises no fault, and this is the only one of the model (R105, D31). -/
inductive Fault where
  /-- `AccOverflow` (R40): raised by MemWrite at an index not below `ACC_CAP` and by MemRead beyond `acc_len`.
  Safe: unreachable with `ACC_CAP` of at least 128 (R99), and a stop with a smaller one (I14). -/
  | accOverflow
deriving DecidableEq, Repr

/-- Why an instruction has no meaning. -/
inductive Refusal where
  /-- Raised by an arm of `exec` whose instruction has no meaning yet: none now. Safe. -/
  | notModelled (mnemonic : String)
  /-- Raised by DATA outside a burst, where `remaining` and `capture` do not exist (R14, R15). Safe: the decoder
  never gives DATA in Idle (R62), so no step answers it. -/
  | dataOutsideBurst
deriving DecidableEq, Repr

/-- What a step or a meaning answers. -/
abbrev Result := Host.Outcome State Fault Refusal

/-- The state right after `initialize()` with the power-on values of R29 and R34, for a configuration. -/
def State.powerOn (c : Config) : State where
  cfg := c
  engine := .idle
  pins :=
    { oe := false
      outLatch := 0b00000#5
      dir := decide (c.oeMode = .aux)
      auxLevel := !c.auxActive
      initDone := true }
  transport :=
    { phase := .betweenTicks
      chunk := []
      out := []
      acc := []
      accLen := 0
      lastFlush := 0 }
  logs := { trace := [], txlog := [], consumed := 0 }
  env :=
    { rxq := []
      linkActive := false
      txReady := false
      rxTake := chunkMax
      now := 0
      answers := []
      answerNo := 0
      turns := []
      turnNo := 0 }

/-- The machine right after power-on (R123). -/
def State.reset : State := State.powerOn Config.machine

end Sys2Proof.Machine
end

