-- ==== Sys2Proof/Machine/Flags.lean ====
section
/-! DEFINITION. The CORE has no condition code and no flag a byte can test (spec/10_state.md R28). This file
holds what is computed from its one-bit items: the enable pin's level (R22), whether the writable signals drive
the bus, and the bus view (R23). -/

namespace Sys2Proof.Machine

/-- The level the auxiliary enable pin has for an output-enable state (R22, R74). -/
def auxLevelFor (c : Config) (e : Bool) : Bool := if e then c.auxActive else !c.auxActive

/-- Whether the writable signals drive the bus, from the enable pin or the direction (R23). -/
def drives (s : State) : Bool :=
  match s.cfg.oeMode with
  | .aux => decide (s.pins.auxLevel = s.cfg.auxActive)
  | .direct => s.pins.dir

/-- What the target can see on writable signal `i`: a level, or none for `Z`, floating (R23; log 17). -/
def bus (s : State) (i : Fin 5) : Option Bool :=
  if drives s then some (s.pins.outLatch.getLsbD i) else none

end Sys2Proof.Machine
end

