-- ==== Sys2Proof/Machine/Memory.lean ====
section
/-! DEFINITION. The accumulator's storage: reading, writing and compacting a canonical list of cells
(spec/20_memory.md R37, R40, spec/42_transport.md R97). -/

namespace Sys2Proof.Machine

/-- The canonical form: indices strictly rising. An unlisted index holds no value, so no entry can equal it. -/
abbrev Memory.wf (m : Memory) : Prop := m.Pairwise (fun c d => c.1 < d.1)

/-- The byte at an index; none where the index holds no value (R25). -/
def Memory.read? : Memory → Nat → Option Byte
  | [], _ => none
  | (k, v) :: m, a => if a = k then some v else Memory.read? m a

/-- `acc[a] <- v`, in the canonical form. -/
def Memory.write : Memory → Nat → Byte → Memory
  | [], a, v => [(a, v)]
  | (k, w) :: m, a, v =>
    if a < k then (a, v) :: (k, w) :: m
    else if a = k then (a, v) :: m
    else (k, w) :: Memory.write m a v

/-- `n` bytes from index `a` on; where an index holds no value, the byte that `free` gives there. -/
def Memory.readN (free : Nat → Byte) (m : Memory) : Nat → Nat → List Byte
  | _, 0 => []
  | a, n + 1 => (Memory.read? m a).getD (free a) :: Memory.readN free m (a + 1) n

/-- `acc[i] <- acc[i + n]` for every `i`: the first `n` bytes go, the others move to the front (R97). -/
def Memory.dropFront (m : Memory) (n : Nat) : Memory :=
  (m.filter (fun c => decide (n ≤ c.1))).map (fun c => (c.1 - n, c.2))

end Sys2Proof.Machine
end

