-- ==== Sys2Proof/WellFormed.lean ====
section
/-! DEFINITION. Which terms are well formed: an instruction in a mode and a program tracked through the modes
(the "legal when" column of spec/30_encoding.md R66), a pseudo-instruction (R67) and a configuration
(spec/00_scope.md R8, spec/20_memory.md R36). Operand ranges need no check: the operands' types are as wide as
their fields. -/

namespace Sys2Proof

/-- An instruction is legal exactly in the mode that decodes it (R66). -/
def Instr.legalIn (m : Mode) (i : Instr) : Bool := decide (i.decodeMode = m)

/-- The mode with `k` data bytes of a burst still to come, 0 being Idle (R65). -/
def modeOfRemaining : Nat → Mode
  | 0 => .idle
  | _ + 1 => .shiftActive

/-- The data bytes still to come after an instruction, as an assembler tracks them (R65, R66). -/
def remainingAfter (k : Nat) : Instr → Nat
  | .bitbang _ _ _ => k
  | .shift _ n => n.toNat
  | .data _ => k - 1

/-- Every instruction of a program is legal where it stands, `k` data bytes being due at its start (R66). -/
def programLegalFrom : Nat → List Instr → Bool
  | _, [] => true
  | k, i :: is => i.legalIn (modeOfRemaining k) && programLegalFrom (remainingAfter k i) is

/-- A program that starts in Idle is legal (R66). -/
def programLegal (is : List Instr) : Bool := programLegalFrom 0 is

/-- `SHIFTW` and `SHIFTR` take 1 to 63 bytes (R67). -/
def Pseudo.wf : Pseudo → Bool
  | .sig _ _ _ _ _ _ _ => true
  | .pulse _ _ _ => true
  | .shiftw ds => decide (1 ≤ ds.length) && decide (ds.length ≤ remMax)
  | .shiftr ds => decide (1 ≤ ds.length) && decide (ds.length ≤ remMax)
  | .clklow => true

/-- What R8, R36 and R99 ask of the parameters: the inbound FIFO holds a chunk, the auxiliary pin is none of
the 7 signal pins, and the accumulator holds what one read can add. -/
def Config.wf (c : Config) : Bool :=
  decide (chunkMax ≤ c.rxFifoCap) &&
  (decide (c.auxPin < c.pinBase) || decide (c.pinBase + nOut + nIn ≤ c.auxPin)) &&
  decide (readGate + chunkMax ≤ c.accCap)

end Sys2Proof
end

