-- ==== Sys2Proof/Decode.lean ====
section
/-! DEFINITION. The decoder, total on every byte in every mode (spec/30_encoding.md R62, R63), after it the
encoder, and the expansion of the pseudo-instructions (R67). -/

namespace Sys2Proof

/-- The only way reading an instruction can fail: there is no byte to read. No byte value is refused (R63). -/
inductive DecodeError where
  | noByte
deriving DecidableEq, Repr

/-- Format BB: `r = b[6]`, `o = b[5]`, `p = b[4:0]` (R56, R59). -/
def decodeBitbang (b : Byte) : Instr :=
  .bitbang (b.getLsbD 6) (b.getLsbD 5) (b.extractLsb' 0 5)

/-- Format SH: `c = b[6]`, `n = b[5:0]` (R57, R60). -/
def decodeShift (b : Byte) : Instr :=
  .shift (b.getLsbD 6) (b.extractLsb' 0 6)

/-- Format D: all 8 bits (R58, R61). -/
def decodeData (b : Byte) : Instr := .data b

/-- The decoder, a total function of the mode and the byte (R62). -/
def decode : Mode → Byte → Instr
  | .shiftActive, b => decodeData b
  | .idle, b => if b.getLsbD 7 then decodeShift b else decodeBitbang b

/-- The first instruction of a stream in a mode, and the rest of the stream: one byte each (R54). -/
def decodeBytes (m : Mode) : List Byte → Except DecodeError (Instr × List Byte)
  | [] => .error .noByte
  | b :: bs => .ok (decode m b, bs)

/-- The instructions of a whole stream, found by tracking the data bytes still due, `k` at its start (R65). -/
def decodeStream : Nat → List Byte → List Instr
  | _, [] => []
  | k, b :: bs =>
    decode (modeOfRemaining k) b :: decodeStream (remainingAfter k (decode (modeOfRemaining k) b)) bs

/-- The bytes of a table word of `nbits` bits whose bits above `nbits` are 0: an instruction is one byte (R54). -/
def tableBytes (nbits w : Nat) : List Byte := [BitVec.ofNat 8 (w % 2 ^ nbits)]

/-- What the decoder reads from a table word in the mode the machine has after reset, Idle (R123). A DATA byte
has no bits of its own to tell it from a control byte: only the mode does (R55, R61; log 8). -/
def decodeTableWord (nbits w : Nat) : Option Instr :=
  match decodeBytes .idle (tableBytes nbits w) with
  | .ok (i, _) => some i
  | .error _ => none

/-- One bit as the lowest bit of a byte. -/
def bitByte (b : Bool) : Byte := BitVec.setWidth 8 (BitVec.ofBool b)

/-- The encoder, written from the syntax table: `r<<6 | o<<5 | p`, `0x80 | c<<6 | n`, the byte itself (R66). -/
def encode : Instr → Byte
  | .bitbang r o p => (bitByte r <<< 6) ||| (bitByte o <<< 5) ||| p.setWidth 8
  | .shift c n => 0x80#8 ||| (bitByte c <<< 6) ||| n.setWidth 8
  | .data d => d

/-- A row of spec/opcode_table.json. -/
structure OpcodeRow where
  mnemonic : String
  mask : Byte
  pattern : Byte
  mode : Mode
deriving DecidableEq, Repr

/-- spec/opcode_table.json. -/
def opcodeTable : List OpcodeRow :=
  [ { mnemonic := "BITBANG", mask := 0x80#8, pattern := 0x00#8, mode := .idle },
    { mnemonic := "SHIFT", mask := 0x80#8, pattern := 0x80#8, mode := .idle },
    { mnemonic := "DATA", mask := 0x00#8, pattern := 0x00#8, mode := .shiftActive } ]

/-- A byte matches a row in a mode. -/
def OpcodeRow.matchesByte (row : OpcodeRow) (m : Mode) (b : Byte) : Bool :=
  decide (row.mode = m) && decide (b &&& row.mask = row.pattern)

/-- The mnemonic of an instruction's row. -/
def Instr.mnemonic : Instr → String
  | .bitbang _ _ _ => "BITBANG"
  | .shift _ _ => "SHIFT"
  | .data _ => "DATA"

/-- The levels `dout<<4 | cs<<3 | ce<<2 | mode<<1 | clk` (R67). -/
def signalLevels (dout cs ce mode clk : Bool) : Levels :=
  (BitVec.ofBool dout ++ BitVec.ofBool cs ++ BitVec.ofBool ce ++ BitVec.ofBool mode ++ BitVec.ofBool clk).setWidth 5

/-- The instructions a pseudo-instruction stands for (R67). -/
def Pseudo.expand : Pseudo → List Instr
  | .sig r oe dout cs ce mode clk => [.bitbang r oe (signalLevels dout cs ce mode clk)]
  | .pulse r oe p => [.bitbang false oe (p &&& 0b11110#5), .bitbang r oe (p ||| 0b00001#5)]
  | .shiftw ds => .shift false (BitVec.ofNat 6 ds.length) :: ds.map .data
  | .shiftr ds => .shift true (BitVec.ofNat 6 ds.length) :: ds.map .data
  | .clklow => [.shift false 0#6]

end Sys2Proof
end

