-- ==== Sys2Proof/Machine/Operands.lean ====
section
/-! DEFINITION. Masks, levels and the engine's arithmetic: what the operands of a byte become on their way to
the pins and to the output (spec/10_state.md R19, spec/40_signal_layer.md R76, R77, spec/41_protocol_engine.md
R88), and the pin numbers of spec/20_memory.md R36. -/

namespace Sys2Proof.Machine

/-- `M_CLK` (R19) -/
def maskClk : Levels := 0b00001#5
/-- `M_MODE` (R19) -/
def maskMode : Levels := 0b00010#5
/-- `M_CE` (R19) -/
def maskCe : Levels := 0b00100#5
/-- `M_CS` (R19) -/
def maskCs : Levels := 0b01000#5
/-- `M_DOUT` (R19) -/
def maskDout : Levels := 0b10000#5
/-- `M_ALL` (R19) -/
def maskAll : Levels := 0b11111#5

/-- The chip-select latch bit, `out_latch[3]` (R77). -/
def chipSelect (latch : Levels) : Bool := latch.getLsbD 3

/-- `SHIFT_SEL` as a function of the chip-select latch bit (R77). -/
def shiftSel (c : Config) : Bool → Input
  | false => c.shiftSel0
  | true => c.shiftSel1

/-- `d[i] << 4`: bit `i` of a data byte as a level of data-out (R76). -/
def doutLevel (d : Byte) (i : Nat) : Levels := if d.getLsbD i then 0b10000#5 else 0b00000#5

/-- `r <- (r >> 1) | (s << 7)`: a sample enters the shift register at the top (R76, R88). -/
def shiftIn (r : Byte) (s : Bool) : Byte := (r >>> 1) ||| (bitByte s <<< 7)

/-- `zext_8(v)`: a two-bit sample as an output byte (R86, R88). -/
def zext8 (v : Sample) : Byte := v.setWidth 8

/-- The engine after a data byte: `remaining = 1` goes to Idle, anything else counts down (R84, R88). -/
def afterData (remaining : BurstLen) (capture : Bool) : Engine :=
  if remaining = 1#6 then .idle else .shiftActive (remaining - 1#6) capture

/-- The engine after a SHIFT header: an empty burst leaves it as it is (R64, R85). -/
def afterShift (e : Engine) (c : Bool) (n : BurstLen) : Engine :=
  if n = 0#6 then e else .shiftActive n c

/-- The GPIO number of writable signal `i` (R36). -/
def writablePin (c : Config) (i : Nat) : Nat := c.pinBase + i

/-- The GPIO number of a readable signal (R36). -/
def readablePin (c : Config) (j : Input) : Nat := c.pinBase + nOut + j.index

/-- Five levels placed on the GPIO word, `v << PIN_BASE`: the value, or the mask, of one masked write (R36). -/
def gpioWord (c : Config) (v : Levels) : Nat := v.toNat <<< c.pinBase

/-- The document's figure for a busy-wait, in nanoseconds (R7, R136). Timing only: no step reads it (log 13). -/
def delayNs (c : Config) : DelayKind → Nat
  | .oeSettle => tOeSettleNs
  | .bbSetup => c.tBbSetup
  | .clkHigh => tClkHighUnits * c.tUnit

end Sys2Proof.Machine
end

