-- ==== Sys2Proof/Machine/Ops.lean ====
section
/-! DEFINITION. The named operations every meaning is made of: the pin primitives (spec/40_signal_layer.md R69 to
R73), setOutputEnable (R74), initialize (R68), emit (spec/41_protocol_engine.md R82), the accumulator primitives
(spec/20_memory.md R40), and taking a lifecycle event with `reset()` (spec/60_exceptions.md R106, R109,
spec/70_reset_and_hazards.md R120). There is no return from an event (R110). -/

namespace Sys2Proof.Machine

/-- Go on with `f` if the answer is a next state. -/
def andThen (r : Result) (f : State → Result) : Result :=
  match r with
  | .next s => f s
  | .fault e => .fault e
  | .refused e => .refused e

/-! ### Primitives -/

/-- Append an event to `trace` (R31). -/
def logEvent (e : Event) (s : State) : State :=
  { s with logs := { s.logs with trace := s.logs.trace ++ [e] } }

/-- `PinWrite(m, v)`: the latch bits in `m` take their value in `v` at one instant (R69). -/
def pinWrite (m v : Levels) (s : State) : State :=
  logEvent (.w m (v &&& m))
    { s with pins := { s.pins with outLatch := (s.pins.outLatch &&& ~~~m) ||| (v &&& m) } }

/-- The target's answer to the next sample: the first listed one, else a free value (R70; log 2). -/
def nextAnswer (v : Env) : Sample :=
  match v.answers with
  | a :: _ => a
  | [] => Config.freeAnswer v.answerNo

/-- The target has answered one sample. -/
def takeAnswer (s : State) : State :=
  { s with env := { s.env with answers := s.env.answers.tail, answerNo := s.env.answerNo + 1 } }

/-- `PinSample2()` (R70). -/
def pinSample2 (s : State) : Sample × State :=
  (nextAnswer s.env, logEvent (.s2 (nextAnswer s.env)) (takeAnswer s))

/-- `PinSample1(j)`: bit `j` of the target's answer (R70; log 2). -/
def pinSample1 (j : Input) (s : State) : Bool × State :=
  ((nextAnswer s.env).getLsbD j.index, logEvent (.s1 j ((nextAnswer s.env).getLsbD j.index)) (takeAnswer s))

/-- `SetDir(e)` (R71). -/
def setDir (e : Bool) (s : State) : State :=
  logEvent (.dir e) { s with pins := { s.pins with dir := e } }

/-- `AuxWrite(l)` (R71). -/
def auxWrite (l : Bool) (s : State) : State :=
  logEvent (.aux l) { s with pins := { s.pins with auxLevel := l } }

/-- `Indicator(e)` (R72). -/
def indicator (e : Bool) (s : State) : State := logEvent (.ind e) s

/-- `Delay(k)` (R73). -/
def delay (k : DelayKind) (s : State) : State := logEvent (.dly k) s

/-! ### The output enable -/

/-- `oe <- e`. -/
def writeOe (e : Bool) (s : State) : State := { s with pins := { s.pins with oe := e } }

/-- What a change of the output enable does to the pins: the enable pin and its settle wait, or the direction
(R74). -/
def gateOutputs (e : Bool) (s : State) : State :=
  match s.cfg.oeMode with
  | .aux => delay .oeSettle (auxWrite (auxLevelFor s.cfg e) s)
  | .direct => setDir e s

/-- `setOutputEnable(e)` (R74). -/
def setOutputEnable (e : Bool) (s : State) : State :=
  if e = s.pins.oe then s else indicator e (gateOutputs e (writeOe e s))

/-- `initialize()` (R68). It runs before the power-on state, so no step calls it (log 15). -/
def initializePins (s : State) : State :=
  if s.pins.initDone then s
  else
    { s with pins :=
      { oe := false
        outLatch := 0b00000#5
        dir := decide (s.cfg.oeMode = .aux)
        auxLevel :=
          match s.cfg.oeMode with
          | .aux => !s.cfg.auxActive
          | .direct => s.pins.auxLevel
        initDone := true } }

/-! ### The engine's output and state -/

/-- `emit(v)`: append to the current call's output list (R82). -/
def emit (v : Byte) (s : State) : State :=
  { s with transport := { s.transport with out := s.transport.out ++ [v] } }

/-- Write the engine state. -/
def setEngine (e : Engine) (s : State) : State := { s with engine := e }

/-! ### The accumulator -/

/-- `MemWrite(a, 1, v)`, legal only below `ACC_CAP` (R40). -/
def memWrite (a : Nat) (v : Byte) (s : State) : Result :=
  if a < s.cfg.accCap then
    .next { s with transport := { s.transport with acc := s.transport.acc.write a v } }
  else .fault .accOverflow

/-- The list `acc[a], ..., acc[a+n-1]`; a byte that holds no value reads as a free value (R40; log 10). -/
def accRead (a n : Nat) (s : State) : List Byte :=
  s.transport.acc.readN (Config.freeAccByte s.logs.txlog.length) a n

/-- `MemRead(a, n)`, legal up to `acc_len` and only there (R40). -/
def memRead (a n : Nat) (s : State) : Except Fault (List Byte) :=
  if a + n ≤ s.transport.accLen then .ok (accRead a n s) else .error .accOverflow

/-! ### Taking a lifecycle event -/

/-- `reset()`: Idle, then the output disabled, then one masked write of five low levels (R120). -/
def engineReset (s : State) : State :=
  pinWrite maskAll 0b00000#5 (setOutputEnable false (setEngine .idle s))

/-- Whether a lifecycle event resets the engine (R106). -/
def eventResets (c : Config) : Lifecycle → Bool
  | .busReset => true
  | .mount => true
  | .resume => true
  | .unmount => c.resetOnUnmountSuspend
  | .suspend => c.resetOnUnmountSuspend

/-- Taking an event: `reset()` and nothing else, or nothing at all (R106, R109). -/
def takeEvent (e : Lifecycle) (s : State) : State :=
  if eventResets s.cfg e then engineReset s else s

end Sys2Proof.Machine
end

