-- ==== Sys2Proof/Machine/Signal.lean ====
section
/-! DEFINITION. The Signal Layer's exchanges: bitbangExchange (spec/40_signal_layer.md R75) and shiftExchange
(R76, R77). -/

namespace Sys2Proof.Machine

/-- `bitbangExchange(p)`: sample both inputs, wait, then one atomic write of all five levels (R75). -/
def bitbangExchange (p : Levels) (s : State) : Sample × State :=
  let a := pinSample2 s
  (a.1, pinWrite maskAll p (delay .bbSetup a.2))

/-- One clock pulse: high, hold, low (R76). -/
def clockPulse (s : State) : State :=
  pinWrite maskClk 0b00000#5 (delay .clkHigh (pinWrite maskClk 0b00001#5 s))

/-- One iteration of shiftExchange, for bit `i` of the data byte (R76). -/
def shiftBit (sel : Input) (d : Byte) (i : Nat) (r : Byte) (s : State) : Byte × State :=
  let a := pinSample1 sel (pinWrite maskDout (doutLevel d i) s)
  (shiftIn r a.1, clockPulse a.2)

/-- The iterations of shiftExchange for a list of bit numbers (R76). -/
def shiftBits (sel : Input) (d : Byte) : List Nat → Byte → State → Byte × State
  | [], r, s => (r, s)
  | i :: is, r, s =>
    let a := shiftBit sel d i r s
    shiftBits sel d is a.1 a.2

/-- `shiftExchange(d)`: the input is selected once, at entry, from the chip-select latch bit (R76, R77). -/
def shiftExchange (d : Byte) (s : State) : Byte × State :=
  shiftBits (shiftSel s.cfg (chipSelect s.pins.outLatch)) d [0, 1, 2, 3, 4, 5, 6, 7] 0x00#8 s

end Sys2Proof.Machine
end

