-- ==== Sys2Proof/Machine/Bitbang.lean ====
section
/-! DEFINITION. BITBANG (spec/41_protocol_engine.md R86). -/

namespace Sys2Proof.Machine

/-- Emit a sample if the read flag is set (R86). -/
def emitSample (r : Bool) (v : Sample) (s : State) : State := if r then emit (zext8 v) s else s

/-- BITBANG: the output enable first, then the exchange, then the sample if asked for (R86). -/
def execBitbang (r o : Bool) (p : Levels) (s : State) : Result :=
  let a := bitbangExchange p (setOutputEnable o s)
  .next (emitSample r a.1 a.2)

end Sys2Proof.Machine
end

