-- ==== Sys2Proof/Machine/Burst.lean ====
section
/-! DEFINITION. The shift burst: SHIFT, its header (spec/41_protocol_engine.md R85), and DATA, one byte of it
(R84). -/

namespace Sys2Proof.Machine

/-- Force the clock low, unless the burst is empty and the configuration leaves the clock alone then (R85). -/
def forceClockLow (n : BurstLen) (s : State) : State :=
  if n ≠ 0#6 ∨ s.cfg.zeroLenClkLow = true then pinWrite maskClk 0b00000#5 s else s

/-- SHIFT (R85). -/
def execShift (c : Bool) (n : BurstLen) (s : State) : Result :=
  .next (setEngine (afterShift s.engine c n) (forceClockLow n s))

/-- Emit a shift result if the burst captures (R84). -/
def emitCapture (capture : Bool) (r : Byte) (s : State) : State := if capture then emit r s else s

/-- DATA: shift the byte, emit the result if the burst captures, count down (R84). Outside a burst `remaining`
and `capture` do not exist (R14, R15), and the decoder never gives DATA there (R62; log 7). -/
def execData (d : Byte) (s : State) : Result :=
  match s.engine with
  | .shiftActive remaining capture =>
    let a := shiftExchange d s
    .next (setEngine (afterData remaining capture) (emitCapture capture a.1 a.2))
  | .idle => .refused .dataOutsideBurst

end Sys2Proof.Machine
end

