-- ==== Sys2Proof/Machine/Dispatch.lean ====
section
/-! DEFINITION. One arm per instruction. -/

namespace Sys2Proof.Machine

/-- The meaning of an instruction, the second half of the per-byte dispatch (spec/41_protocol_engine.md R83). -/
def exec (i : Instr) (s : State) : Host.Outcome State Fault Refusal :=
  match i with
  | .bitbang r o p => Sys2Proof.Machine.execBitbang r o p s
  | .shift c n => Sys2Proof.Machine.execShift c n s
  | .data d => Sys2Proof.Machine.execData d s

end Sys2Proof.Machine
end

