-- ==== Sys2Proof/Machine/Process.lean ====
section
/-! DEFINITION. The Protocol Engine's `process`: one byte of the current chunk, and a whole call with no event
inside it (spec/41_protocol_engine.md R80 to R83). -/

namespace Sys2Proof.Machine

/-- The stream cursor passes one byte (spec/10_state.md R18, R81). -/
def countByte (s : State) : State :=
  { s with logs := { s.logs with consumed := s.logs.consumed + 1 } }

/-- `step(b)` of R83: decode the byte in the engine's mode, run it, count it. -/
def engineByte (b : Byte) (s : State) : Result :=
  andThen (exec (decode s.engine.mode b) s) (fun s => .next (countByte s))

/-- The chunk still to be interpreted. -/
def setChunk (bs : List Byte) (s : State) : State :=
  { s with transport := { s.transport with chunk := bs } }

/-- The bytes of a call one after another, first to last, each once, with no event between them (R81). -/
def engineBytes : List Byte → State → Result
  | [], s => .next s
  | b :: bs, s => andThen (engineByte b s) (engineBytes bs)

end Sys2Proof.Machine
end

