-- ==== Sys2Proof/Machine/Transport.lean ====
section
/-! DEFINITION. The Transport Adapter's service tick (spec/42_transport.md R91 to R98), cut into core steps at the
places where spec/60_exceptions.md R107 lets an event be taken (log 4). -/

namespace Sys2Proof.Machine

/-- Where the core loop stands in the tick. -/
def setPhase (p : Phase) (s : State) : State :=
  { s with transport := { s.transport with phase := p } }

/-! ### Steps 1 and 2: the link and the read -/

/-- The link is inactive: the pending output is dropped, and nothing else changes (R94). -/
def dropOutput (s : State) : State :=
  { s with transport := { s.transport with acc := [], accLen := 0 } }

/-- The guard of the inbound read (R93). -/
def mayRead (s : State) : Bool :=
  !s.env.rxq.isEmpty && decide (s.transport.accLen ≤ readGate)

/-- The chunk size: the environment's draw, clipped to `1 .. min(CHUNK_MAX, len(rxq))` (R93; log 3). -/
def chunkSize (s : State) : Nat := max 1 (min s.env.rxTake (min chunkMax s.env.rxq.length))

/-- `rx_read(k)`, and the call of `process` begins with an empty output list (R81, R93). -/
def readChunk (k : Nat) (s : State) : State :=
  { s with
    env := { s.env with rxq := s.env.rxq.drop k }
    transport := { s.transport with phase := .processing, chunk := s.env.rxq.take k, out := [] } }

/-- The tick begins: step 1, and step 2 up to the call of `process` (R91, R93, R94). -/
def tickBegin (s : State) : State :=
  if s.env.linkActive then
    if mayRead s then readChunk (chunkSize s) s else setPhase .flushing s
  else dropOutput s

/-! ### The end of step 2 -/

/-- `MemWrite(acc_len, 1, v); acc_len <- acc_len + 1` (R91). -/
def appendByte (v : Byte) (s : State) : Result :=
  andThen (memWrite s.transport.accLen v s)
    (fun s => .next { s with transport := { s.transport with accLen := s.transport.accLen + 1 } })

/-- The output list enters the accumulator in order (R91, R93). -/
def appendBytes : List Byte → State → Result
  | [], s => .next s
  | v :: vs, s => andThen (appendByte v s) (appendBytes vs)

/-- The call of `process` is over. -/
def clearOut (s : State) : State := { s with transport := { s.transport with out := [] } }

/-- `process` returns: its output list is appended, and steps 3 and 4 are next (R81, R93). -/
def processEnd (s : State) : Result :=
  andThen (appendBytes s.transport.out s) (fun s => .next (setPhase .flushing (clearOut s)))

/-- Step 2 of a tick whose read takes `k` bytes, with no event inside it: the read, the call of `process` on the
chunk, and its output into the accumulator (R81, R91, R93). -/
def readAndProcess (k : Nat) (s : State) : Result :=
  andThen (engineBytes (s.env.rxq.take k) (setChunk [] (readChunk k s))) processEnd

/-! ### Steps 3 and 4: the flush -/

/-- The timer as the tick reads it: unbounded, or wrapping at `TIMER_BITS` (R92). -/
def timerRead (s : State) : Nat :=
  match s.cfg.timerBits with
  | none => s.env.now
  | some w => s.env.now % 2 ^ w

/-- `t - last_flush`: natural subtraction, or modulo `2^w` on a `w`-bit timer (R92). -/
def elapsed (c : Config) (t last : Nat) : Nat :=
  match c.timerBits with
  | none => t - last
  | some w => (((t : Int) - (last : Int)) % (2 ^ w : Int)).toNat

/-- The flush condition (R95). -/
def flushDue (t : Nat) (s : State) : Bool :=
  decide (frameMax ≤ s.transport.accLen + hdrLen) || decide (latencyMs < elapsed s.cfg t s.transport.lastFlush)

/-- How many payload bytes a flush sends (R96). -/
def payloadLen (s : State) : Nat := min s.transport.accLen payloadMax

/-- `tx_ready(n)`: the environment's answer (R33, R96; log 3). -/
def txReady (_n : Nat) (s : State) : Bool := s.env.txReady

/-- A frame: the constant header, then the payload (R98). -/
def frame (c : Config) (payload : List Byte) : List Byte := c.hdr0 :: c.hdr1 :: payload

/-- `tx_send(f)` (R96). -/
def txSend (f : List Byte) (s : State) : State :=
  { s with logs := { s.logs with txlog := s.logs.txlog ++ [f] } }

/-- `last_flush <- t` (R96). -/
def recordFlush (t : Nat) (s : State) : State :=
  { s with transport := { s.transport with lastFlush := t } }

/-- `compact(n)` (R97). -/
def compact (n : Nat) (s : State) : State :=
  { s with transport :=
    { s.transport with acc := s.transport.acc.dropFront n, accLen := s.transport.accLen - n } }

/-- Step 4 with the channel ready (R96). -/
def sendFrame (t n : Nat) (s : State) : Result :=
  match memRead 0 n s with
  | .ok bs => .next (compact n (recordFlush t (txSend (frame s.cfg bs) s)))
  | .error e => .fault e

/-- Steps 3 and 4, with one reading of the timer (R92, R95, R96). -/
def flushStep (s : State) : Result :=
  if flushDue (timerRead s) s && txReady (hdrLen + payloadLen s) s then
    sendFrame (timerRead s) (payloadLen s) s
  else .next s

/-- The tick ends. -/
def tickEnd (s : State) : Result := andThen (flushStep s) (fun s => .next (setPhase .betweenTicks s))

/-! ### The core loop, step by step and a whole tick at once -/

/-- The next core step of the core loop. -/
def coreStep (s : State) : Result :=
  match s.transport.phase with
  | .betweenTicks => .next (tickBegin s)
  | .processing =>
    match s.transport.chunk with
    | b :: bs => engineByte b (setChunk bs s)
    | [] => processEnd s
  | .flushing => tickEnd s

/-- The service tick of R91 as one function, with no event inside it. -/
def serviceTick (s : State) : Result :=
  if s.env.linkActive then
    andThen
      (if mayRead s then readAndProcess (chunkSize s) s else .next (setPhase .flushing s))
      tickEnd
  else .next (dropOutput s)

/-- How many core steps the tick takes. -/
def tickSteps (s : State) : Nat :=
  if s.env.linkActive then
    if mayRead s then (s.env.rxq.take (chunkSize s)).length + 3 else 2
  else 1

end Sys2Proof.Machine
end

