-- ==== Sys2Proof/Machine/Environment.lean ====
section
/-! DEFINITION. The host environment and the timer, as far as the Transport Adapter can see them (spec/10_state.md
R33), and the order in which the agents move (spec/60_exceptions.md R107, R108; log 1). -/

namespace Sys2Proof.Machine

/-- The host appends a byte at the tail of the inbound FIFO, if there is room (R33, R100; log 14). -/
def hostSend (b : Byte) (s : State) : State :=
  if s.env.rxq.length < s.cfg.rxFifoCap then { s with env := { s.env with rxq := s.env.rxq ++ [b] } } else s

/-- `link_active` takes a value (R33). -/
def setLink (up : Bool) (s : State) : State := { s with env := { s.env with linkActive := up } }

/-- `tx_ready` takes a value (R33). -/
def setReady (r : Bool) (s : State) : State := { s with env := { s.env with txReady := r } }

/-- The draw for the next chunk's size (R93). -/
def setReceive (k : Nat) (s : State) : State := { s with env := { s.env with rxTake := k } }

/-- Time passes; successive readings never decrease (R92). -/
def elapse (ms : Nat) (s : State) : State := { s with env := { s.env with now := s.env.now + ms } }

/-- Who moves next: the first listed turn, else a free value (R107, R108; log 1). -/
def nextTurn (v : Env) : Turn :=
  match v.turns with
  | t :: _ => t
  | [] => Config.freeTurn v.turnNo

/-- The turn has been given. -/
def takeTurn (s : State) : State :=
  { s with env := { s.env with turns := s.env.turns.tail, turnNo := s.env.turnNo + 1 } }

/-- One move of one agent (spec/00_scope.md R11). -/
def runTurn (t : Turn) (s : State) : Result :=
  match t with
  | .core => coreStep s
  | .event e => .next (takeEvent e s)
  | .rx b => .next (hostSend b s)
  | .link up => .next (setLink up s)
  | .ready r => .next (setReady r s)
  | .receive k => .next (setReceive k s)
  | .elapse ms => .next (elapse ms s)

end Sys2Proof.Machine
end

