-- ==== Sys2Proof/Machine/Step.lean ====
section
/-! DEFINITION. One step of the machine, and where a test word is placed so that the next step runs it. -/

namespace Sys2Proof.Machine

/-- One move of the agent whose turn it is (spec/00_scope.md R11; log 1). -/
def step (s : State) : Host.Outcome State Fault Refusal := runTurn (nextTurn s.env) (takeTurn s)

/-- The state whose next step interprets the instruction byte of a table word: the byte stands first in the
chunk that `process` is working on, and the core loop has the next turn (log 9). -/
def State.withFetchWord (s : State) (nbits w : Nat) : State :=
  { s with
    transport := { s.transport with phase := .processing, chunk := tableBytes nbits w ++ s.transport.chunk.tail }
    env := { s.env with turns := .core :: s.env.turns } }

end Sys2Proof.Machine
end

