-- ==== Sys2Proof/Machine/Assembler.lean ====
section
/-! DEFINITION. The spec's own assembler: its text syntax, pseudo-instructions included, and the check that each
instruction stands where the engine would decode it (spec/30_encoding.md R66, R67). The machine never sees it. -/

namespace Sys2Proof.Machine

/-- Why the assembler refuses a program (R66). -/
inductive AsmError where
  /-- No instruction of R66 or R67 has this form. -/
  | badLine
  /-- The instruction is not legal in the mode in which it stands. -/
  | illegalInMode
deriving DecidableEq, Repr

/-- A digit of base at most 16, a letter in either case: its place among the sixteen. -/
def digitVal (base : Nat) (c : Char) : Option Nat :=
  let place := "0123456789abcdef".toList.idxOf c.toLower
  if place < base then some place else none

/-- Digits after the value read so far. -/
def digitsVal (base : Nat) : Nat → List Char → Option Nat
  | acc, [] => some acc
  | acc, c :: cs =>
    match digitVal base c with
    | some v => digitsVal base (acc * base + v) cs
    | none => none

/-- At least one digit. -/
def numeral (base : Nat) : List Char → Option Nat
  | [] => none
  | c :: cs => digitsVal base 0 (c :: cs)

/-- A number in decimal, `0x` hexadecimal or `0b` binary form (R66), below a bound. -/
def parseNum (bound : Nat) (cs : List Char) : Option Nat :=
  let n :=
    match cs with
    | '0' :: 'x' :: ds => numeral 16 ds
    | '0' :: 'b' :: ds => numeral 2 ds
    | ds => numeral 10 ds
  match n with
  | some v => if v < bound then some v else none
  | none => none

/-- What follows a key such as `oe=`. -/
def afterKey : List Char → List Char → Option (List Char)
  | [], cs => some cs
  | _ :: _, [] => none
  | k :: ks, c :: cs => if k = c then afterKey ks cs else none

/-- `key=number`. -/
def keyNum (key : String) (bound : Nat) (cs : List Char) : Option Nat :=
  match afterKey key.toList cs with
  | some ds => parseNum bound ds
  | none => none

/-- A bit, 0 or 1. -/
def parseBit (cs : List Char) : Option Bool := (parseNum 2 cs).map (fun v => decide (v = 1))

/-- `key=bit`. -/
def keyBit (key : String) (cs : List Char) : Option Bool := (keyNum key 2 cs).map (fun v => decide (v = 1))

/-- All of a list of optional values. -/
def allSome {α : Type} : List (Option α) → Option (List α)
  | [] => some []
  | none :: _ => none
  | some a :: os => (allSome os).map (fun as => a :: as)

/-- A byte operand. -/
def parseByte (cs : List Char) : Option Byte := (parseNum 256 cs).map (BitVec.ofNat 8)

/-- The text before a comment. -/
def beforeComment : List Char → List Char
  | [] => []
  | c :: cs => if c = ';' then [] else c :: beforeComment cs

/-- A word that is not empty. -/
def wordEnd : List Char → List (List Char)
  | [] => []
  | c :: cs => [c :: cs]

/-- The words of a line, `w` being the word read so far. -/
def wordsOf : List Char → List Char → List (List Char)
  | w, [] => wordEnd w
  | w, c :: cs => if c = ' ' ∨ c = '\t' then wordEnd w ++ wordsOf [] cs else wordsOf (w ++ [c]) cs

/-- The lines of a text, `l` being the line read so far. -/
def linesOf : List Char → List Char → List (List Char)
  | l, [] => [l]
  | l, c :: cs => if c = '\n' then l :: linesOf [] cs else linesOf (l ++ [c]) cs

/-- The pseudo-instruction with its operands, if it is one (R67). -/
def parsePseudo (name : String) (args : List (List Char)) : Option Pseudo :=
  if name = "SIG" then
    match allSome (args.map parseBit) with
    | some [r, oe, dout, cs, ce, mode, clk] => some (.sig r oe dout cs ce mode clk)
    | _ => none
  else if name = "PULSE" then
    match args with
    | [r, oe, p] =>
      match parseBit r, parseBit oe, parseNum 32 p with
      | some r, some oe, some p => some (.pulse r oe (BitVec.ofNat 5 p))
      | _, _, _ => none
    | _ => none
  else if name = "SHIFTW" then (allSome (args.map parseByte)).map .shiftw
  else if name = "SHIFTR" then (allSome (args.map parseByte)).map .shiftr
  else if name = "CLKLOW" then
    match args with
    | [] => some .clklow
    | _ :: _ => none
  else none

/-- The instruction with its operands, if it is one (R66). -/
def parseInstr (name : String) (args : List (List Char)) : Option Instr :=
  if name = "BB" then
    match args with
    | [r, o, p] =>
      match keyBit "r=" r, keyBit "oe=" o, keyNum "p=" 32 p with
      | some r, some o, some p => some (.bitbang r o (BitVec.ofNat 5 p))
      | _, _, _ => none
    | _ => none
  else if name = "SH" then
    match args with
    | [c, n] =>
      match keyBit "c=" c, keyNum "n=" 64 n with
      | some c, some n => some (.shift c (BitVec.ofNat 6 n))
      | _, _ => none
    | _ => none
  else if name = "DB" then
    match args with
    | [d] => (parseByte d).map .data
    | _ => none
  else none

/-- The instructions of one line; a blank line has none (R66, R67). -/
def parseLine (l : List Char) : Except AsmError (List Instr) :=
  match wordsOf [] (beforeComment l) with
  | [] => .ok []
  | name :: args =>
    match parseInstr (String.ofList name) args, parsePseudo (String.ofList name) args with
    | some i, _ => .ok [i]
    | none, some q => if q.wf then .ok q.expand else .error .badLine
    | none, none => .error .badLine

/-- The instructions of a list of lines. -/
def parseLines : List (List Char) → Except AsmError (List Instr)
  | [] => .ok []
  | l :: ls =>
    match parseLine l, parseLines ls with
    | .ok is, .ok js => .ok (is ++ js)
    | .error e, _ => .error e
    | .ok _, .error e => .error e

/-- The bytes of a program that is legal where it stands (R66). -/
def assembleInstrs (is : List Instr) : Except AsmError (List Byte) :=
  if programLegal is then .ok (is.map encode) else .error .illegalInMode

/-- The bytes of a text (R66, R67). -/
def assemble (text : String) : Except AsmError (List Byte) :=
  match parseLines (linesOf [] text.toList) with
  | .ok is => assembleInstrs is
  | .error e => .error e

end Sys2Proof.Machine
end

