-- ==== Sys2Proof/Machine/Loopback.lean ====
section
/-! DEFINITION. The reference test double LOOP (spec/40_signal_layer.md R79): not hardware, but a target whose two
inputs are both wired to data-out. First what it means, as a condition on the events a run appends to the trace: each
sample shows the data-out level of its own moment. Then one choice of the target's answers that meets it (log 16). -/

namespace Sys2Proof.Machine

/-- Both inputs at one level: `c * 0b11`. -/
def bothInputs (c : Bool) : Sample := if c then 0b11#2 else 0b00#2

/-- The data-out level after an event: a write whose mask has data-out sets it (R19, R69). -/
def dataOutAfter (level : Bool) : Event → Bool
  | .w m v => if m.getLsbD 4 then v.getLsbD 4 else level
  | .s2 _ => level
  | .s1 _ _ => level
  | .dir _ => level
  | .aux _ => level
  | .dly _ => level
  | .ind _ => level

/-- Whether an event is what LOOP lets happen at a data-out level: a sample shows that level on each input it reads
(R79). -/
def loopEvent (level : Bool) : Event → Bool
  | .s2 v => decide (v = bothInputs level)
  | .s1 _ b => decide (b = level)
  | .w _ _ => true
  | .dir _ => true
  | .aux _ => true
  | .dly _ => true
  | .ind _ => true

/-- Whether a run's events are those of LOOP, from a data-out level on: each sample shows the level that the writes
before it have left (R79). -/
def loopTrace : Bool → List Event → Bool
  | _, [] => true
  | level, e :: es => loopEvent level e && loopTrace (dataOutAfter level e) es

/-- LOOP's answers while an instruction runs: each sample is the data-out latch bit of that moment (R79). In a
data byte, the sample of iteration `i` follows the write of bit `i`. -/
def loopAnswers (i : Instr) (s : State) : List Sample :=
  match i with
  | .bitbang _ _ _ => [bothInputs (s.pins.outLatch.getLsbD 4)]
  | .shift _ _ => []
  | .data d => [0, 1, 2, 3, 4, 5, 6, 7].map (fun k => bothInputs (d.getLsbD k))

/-- The state in which LOOP answers the next instruction. -/
def wireLoop (i : Instr) (s : State) : State := { s with env := { s.env with answers := loopAnswers i s } }

/-- A byte interpreted under LOOP. -/
def engineByteLoop (b : Byte) (s : State) : Result := engineByte b (wireLoop (decode s.engine.mode b) s)

/-- The bytes of a call under LOOP. -/
def engineBytesLoop : List Byte → State → Result
  | [], s => .next s
  | b :: bs, s => andThen (engineByteLoop b s) (engineBytesLoop bs)

end Sys2Proof.Machine
end

