-- ==== Sys2Proof/Safety.lean ====
section
/-! DEFINITION. The machine's invariant and the streams that claims speak of. -/

namespace Sys2Proof.Machine

/-- R16: Idle, or ShiftActive with at least one data byte due (63 at most by the field's width, R14). -/
def EngineOk (s : State) : Prop :=
  match s.engine with
  | .idle => True
  | .shiftActive remaining _ => remaining ≠ 0#6

/-- R21, R22, R24: the direction or the enable pin follows `oe`, and initialization is done. -/
def GateOk (s : State) : Prop :=
  s.pins.initDone = true ∧
  match s.cfg.oeMode with
  | .direct => s.pins.dir = s.pins.oe
  | .aux => s.pins.dir = true ∧ s.pins.auxLevel = auxLevelFor s.cfg s.pins.oe

/-- R25, R37: exactly the bytes `acc[0 .. acc_len-1]` hold a value. -/
def AccFilled (s : State) : Prop := s.transport.acc.map Prod.fst = List.range s.transport.accLen

/-- R99: the accumulator's bound. -/
def AccBounded (s : State) : Prop := s.transport.accLen ≤ readGate + chunkMax

/-- R30 (4), R80, R93: inside `process` the call holds at most a chunk and started at the gate or below; outside
it there is no chunk and no output list. -/
def PhaseOk (s : State) : Prop :=
  match s.transport.phase with
  | .processing =>
    s.transport.accLen ≤ readGate ∧ s.transport.out.length + s.transport.chunk.length ≤ chunkMax
  | .betweenTicks => s.transport.chunk = [] ∧ s.transport.out = []
  | .flushing => s.transport.chunk = [] ∧ s.transport.out = []

/-- R98: the header, and 0 to 62 payload bytes. -/
def FrameOk (c : Config) (f : List Byte) : Prop :=
  ∃ payload, f = frame c payload ∧ payload.length ≤ payloadMax

/-- R98, of every frame sent. -/
def FramesOk (s : State) : Prop := ∀ f ∈ s.logs.txlog, FrameOk s.cfg f

/-- R33: the inbound FIFO holds at most `RX_FIFO_CAP` bytes. -/
def RxBounded (s : State) : Prop := s.env.rxq.length ≤ s.cfg.rxFifoCap

/-- R26, R92: on an unbounded timer the last flush is not in the future; on a `w`-bit timer its time is a
`w`-bit value. -/
def FlushTimeOk (s : State) : Prop :=
  match s.cfg.timerBits with
  | none => s.transport.lastFlush ≤ s.env.now
  | some w => s.transport.lastFlush < 2 ^ w

/-- The invariant of the machine. -/
structure Inv (s : State) : Prop where
  cfg : s.cfg.wf = true
  engine : EngineOk s
  gate : GateOk s
  accFilled : AccFilled s
  accBounded : AccBounded s
  phase : PhaseOk s
  frames : FramesOk s
  rx : RxBounded s
  flushTime : FlushTimeOk s

/-- The accumulator's bytes, oldest first (R25). -/
def accBytes (s : State) : List Byte := s.transport.acc.map Prod.snd

/-- The payload of a frame: what follows the header (R98). -/
def payloadOf (f : List Byte) : List Byte := f.drop hdrLen

/-- Every engine output byte that has not been dropped, oldest first: sent, accumulated, and in the output list
of the current call (R41, R48). -/
def outputStream (s : State) : List Byte :=
  (s.logs.txlog.map payloadOf).flatten ++ accBytes s ++ s.transport.out

/-- Every inbound byte the CORE has taken or will take from the FIFO, counted (R49). -/
def inboundCount (s : State) : Nat :=
  s.logs.consumed + s.transport.chunk.length + s.env.rxq.length

/-- Where a tick may drop output: the core loop begins a tick with the link inactive (R49, R94). -/
def dropsOutput (s : State) : Prop :=
  nextTurn s.env = .core ∧ s.transport.phase = .betweenTicks ∧ s.env.linkActive = false

/-! ### What an instruction must leave alone, and the events it must cause -/

/-- Everything an instruction leaves unchanged whichever it is: the configuration, the initialization guard, the
Transport Adapter except the output list (every byte of the accumulator included), the frames, the stream cursor,
and the host environment except the target's answers. -/
structure EngineFrame (s t : State) : Prop where
  cfg : t.cfg = s.cfg
  initDone : t.pins.initDone = s.pins.initDone
  phase : t.transport.phase = s.transport.phase
  chunk : t.transport.chunk = s.transport.chunk
  acc : ∀ a, Memory.read? t.transport.acc a = Memory.read? s.transport.acc a
  accLen : t.transport.accLen = s.transport.accLen
  lastFlush : t.transport.lastFlush = s.transport.lastFlush
  txlog : t.logs.txlog = s.logs.txlog
  consumed : t.logs.consumed = s.logs.consumed
  rxq : t.env.rxq = s.env.rxq
  linkActive : t.env.linkActive = s.env.linkActive
  txReady : t.env.txReady = s.env.txReady
  rxTake : t.env.rxTake = s.env.rxTake
  now : t.env.now = s.env.now
  turns : t.env.turns = s.env.turns
  turnNo : t.env.turnNo = s.env.turnNo

/-- The target's answer to the `k`-th sample from here on, the next one being number 0 (R70). -/
def answerAt (v : Env) (k : Nat) : Sample :=
  match v.answers[k]? with
  | some a => a
  | none => Config.freeAnswer (v.answerNo + k)

/-- The input a burst samples in a state (R77). -/
def selectedInput (s : State) : Input := shiftSel s.cfg (chipSelect s.pins.outLatch)

/-- The sample of iteration `k` of a shiftExchange that begins in a state (R76). -/
def shiftSample (s : State) (k : Nat) : Bool := (answerAt s.env k).getLsbD (selectedInput s).index

/-- The events of setOutputEnable (R74): none without a change. -/
def oeEvents (c : Config) (old e : Bool) : List Event :=
  if e = old then []
  else
    match c.oeMode with
    | .aux => [.aux (if e then c.auxActive else !c.auxActive), .dly .oeSettle, .ind e]
    | .direct => [.dir e, .ind e]

/-- The direction after setOutputEnable (R74): written on a change in DIRECT mode only. -/
def dirAfter (c : Config) (p : Pins) (e : Bool) : Bool :=
  if e = p.oe then p.dir
  else
    match c.oeMode with
    | .aux => p.dir
    | .direct => e

/-- The enable pin's level after setOutputEnable (R74): written on a change in AUX mode only. -/
def auxAfter (c : Config) (p : Pins) (e : Bool) : Bool :=
  if e = p.oe then p.auxLevel
  else
    match c.oeMode with
    | .aux => if e then c.auxActive else !c.auxActive
    | .direct => p.auxLevel

/-- The five events of one iteration of shiftExchange (R76). -/
def bitEvents (sel : Input) (d b : Bool) : List Event :=
  [.w 0b10000#5 (if d then 0b10000#5 else 0b00000#5), .s1 sel b, .w 0b00001#5 0b00001#5, .dly .clkHigh,
    .w 0b00001#5 0b00000#5]

/-- The 40 events of a shiftExchange that begins in a state (R76). -/
def shiftEvents (d : Byte) (s : State) : List Event :=
  [0, 1, 2, 3, 4, 5, 6, 7].flatMap (fun i => bitEvents (selectedInput s) (d.getLsbD i) (shiftSample s i))

/-- How many output bytes an instruction produces in an engine state (R87). -/
def outputCount (e : Engine) : Instr → Nat
  | .bitbang r _ _ => if r then 1 else 0
  | .shift _ _ => 0
  | .data _ =>
    match e with
    | .idle => 0
    | .shiftActive _ capture => if capture then 1 else 0

/-- The data bytes still to come in the current burst (R14, R65). -/
def dueBytes : Engine → Nat
  | .idle => 0
  | .shiftActive remaining _ => remaining.toNat

end Sys2Proof.Machine
end

