-- ==== Sys2Proof/Certificates/Slice0/Obligations.lean ====
section
/-! DEFINITION. What is claimed of the model, rule by rule of spec/. `dirAfter`, `auxAfter`, `oeEvents`,
`shiftEvents`, `shiftSample`, `answerAt`, `EngineFrame` and `Inv` are the vocabulary of Sys2Proof/Safety.lean. -/

open Sys2Proof
open Sys2Proof.Machine hiding State
open Sys2Proof.Machine (State)

/-! ### Encoding -/

/-- R62, the table of the decoder: every byte range in Idle, and any byte in ShiftActive. -/
def Obligations.DecoderFollowsTheByteRanges : Prop :=
  ∀ b : Byte,
    decode .shiftActive b = .data b ∧
    (b.toNat ≤ 0x1F → decode .idle b = .bitbang false false (BitVec.ofNat 5 b.toNat)) ∧
    (0x20 ≤ b.toNat → b.toNat ≤ 0x3F → decode .idle b = .bitbang false true (BitVec.ofNat 5 (b.toNat - 0x20))) ∧
    (0x40 ≤ b.toNat → b.toNat ≤ 0x5F → decode .idle b = .bitbang true false (BitVec.ofNat 5 (b.toNat - 0x40))) ∧
    (0x60 ≤ b.toNat → b.toNat ≤ 0x7F → decode .idle b = .bitbang true true (BitVec.ofNat 5 (b.toNat - 0x60))) ∧
    (0x80 ≤ b.toNat → b.toNat ≤ 0xBF → decode .idle b = .shift false (BitVec.ofNat 6 (b.toNat - 0x80))) ∧
    (0xC0 ≤ b.toNat → decode .idle b = .shift true (BitVec.ofNat 6 (b.toNat - 0xC0)))

/-- Words written out from the formats of R56, R57 and R58 decode to the instruction they stand for, in a burst and
outside one. A sanity statement. -/
def Obligations.FormatWordsDecode : Prop :=
  decode .idle 0b01100101#8 = .bitbang true true 0b00101#5 ∧
  decode .idle 0b00110010#8 = .bitbang false true 0b10010#5 ∧
  decode .idle 0b11000011#8 = .shift true 3#6 ∧
  decode .idle 0b10111111#8 = .shift false 63#6 ∧
  decode .idle 0b10000000#8 = .shift false 0#6 ∧
  decode .shiftActive 0b10000011#8 = .data 0b10000011#8

/-- Decode and encode agree on every instruction in its mode and on every byte in every mode, and the decoder gives
only instructions of the mode (R62, R63, R66). -/
def Obligations.DecodeAndEncodeAgree : Prop :=
  (∀ (m : Mode) (i : Instr), i.legalIn m = true → decode m (encode i) = i) ∧
  (∀ (m : Mode) (b : Byte), encode (decode m b) = b ∧ (decode m b).legalIn m = true)

/-- R65, R66: a program passes the assembler's check exactly when a decoder that tracks the stream from its start
reads it back, at any point of a burst. -/
def Obligations.LegalProgramsAreTheOnesReadBack : Prop :=
  ∀ (k : Nat) (is : List Instr),
    programLegalFrom k is = true ↔ decodeStream k (is.map encode) = is

/-- R65 with R84, R85, R86: what an assembler tracks is what the engine does. After any instruction of the engine's
mode, the data bytes the engine still expects are those `remainingAfter` counts, and the mode tracked from that count
is the engine's. -/
def Obligations.TrackedRemainingIsTheEngines : Prop :=
  (∀ (i : Instr) (s : State), EngineOk s → i.legalIn s.engine.mode = true →
    ∃ t, exec i s = .next t ∧ dueBytes t.engine = remainingAfter (dueBytes s.engine) i ∧
      t.engine.mode = modeOfRemaining (dueBytes t.engine)) ∧
  (∀ s : State, EngineOk s → s.engine.mode = modeOfRemaining (dueBytes s.engine))

/-- In each mode every byte matches exactly one row of the opcode table, and that row is the decoded
instruction's (R62, R63). -/
def Obligations.EveryByteMatchesExactlyOneRow : Prop :=
  ∀ (m : Mode) (b : Byte), ∃ row ∈ opcodeTable,
    row.matchesByte m b = true ∧ row.mnemonic = (decode m b).mnemonic ∧
    ∀ row' ∈ opcodeTable, row'.matchesByte m b = true → row' = row

/-- R67: the bytes each pseudo-instruction expands to, and that `SHIFTW` and `SHIFTR` are legal programs. -/
def Obligations.PseudoInstructionsExpandToTheirBytes : Prop :=
  (∀ r oe dout cs ce mode clk : Bool,
    (Pseudo.sig r oe dout cs ce mode clk).expand.map encode =
      [BitVec.ofNat 8 (r.toNat * 64 + oe.toNat * 32 + dout.toNat * 16 + cs.toNat * 8 + ce.toNat * 4 +
        mode.toNat * 2 + clk.toNat)]) ∧
  (∀ (r oe : Bool) (p : Levels),
    (Pseudo.pulse r oe p).expand.map encode =
      [BitVec.ofNat 8 (oe.toNat * 32 + p.toNat / 2 * 2),
       BitVec.ofNat 8 (r.toNat * 64 + oe.toNat * 32 + p.toNat / 2 * 2 + 1)]) ∧
  (∀ ds : List Byte, 1 ≤ ds.length → ds.length ≤ 63 →
    (Pseudo.shiftw ds).expand.map encode = BitVec.ofNat 8 (0x80 + ds.length) :: ds ∧
    (Pseudo.shiftr ds).expand.map encode = BitVec.ofNat 8 (0xC0 + ds.length) :: ds ∧
    programLegal (Pseudo.shiftw ds).expand = true ∧ programLegal (Pseudo.shiftr ds).expand = true) ∧
  Pseudo.clklow.expand.map encode = [0x80#8]

/-! ### The three instructions -/

/-- R86 with R74 and R75: BITBANG in Idle sets the output enable, samples both inputs, waits, writes the five levels
at once, and emits the sample exactly when its read flag is set; and it changes nothing else. -/
def Obligations.BitbangSetsOutputEnableThenSamplesThenWrites : Prop :=
  ∀ (r o : Bool) (p : Levels) (s : State), s.engine = .idle →
    ∃ t, exec (.bitbang r o p) s = .next t ∧ EngineFrame s t ∧
      t.engine = .idle ∧
      t.pins.oe = o ∧
      t.pins.outLatch = p ∧
      t.pins.dir = dirAfter s.cfg s.pins o ∧
      t.pins.auxLevel = auxAfter s.cfg s.pins o ∧
      t.transport.out = s.transport.out ++ (if r then [BitVec.ofNat 8 (answerAt s.env 0).toNat] else []) ∧
      t.logs.trace = s.logs.trace ++ oeEvents s.cfg s.pins.oe o ++
        [.s2 (answerAt s.env 0), .dly .bbSetup, .w 0b11111#5 p] ∧
      (∀ k, answerAt t.env k = answerAt s.env (k + 1))

/-- R85: SHIFT in Idle forces the clock low, and only the clock, and starts a burst of `n` bytes; with `n = 0` it
stays in Idle, and the clock is forced low if the configuration says so. It emits nothing, whatever `c` is. -/
def Obligations.ShiftForcesClockLowAndStartsTheBurst : Prop :=
  ∀ (c : Bool) (n : BurstLen) (s : State), s.engine = .idle →
    ∃ t, exec (.shift c n) s = .next t ∧ EngineFrame s t ∧
      t.engine = (if n = 0#6 then .idle else .shiftActive n c) ∧
      t.pins.oe = s.pins.oe ∧ t.pins.dir = s.pins.dir ∧ t.pins.auxLevel = s.pins.auxLevel ∧
      t.transport.out = s.transport.out ∧
      t.env = s.env ∧
      (if n ≠ 0#6 ∨ s.cfg.zeroLenClkLow = true then
        (∀ i : Nat, t.pins.outLatch.getLsbD i = (decide (i ≠ 0) && s.pins.outLatch.getLsbD i)) ∧
        t.logs.trace = s.logs.trace ++ [.w 0b00001#5 0b00000#5]
      else t.pins.outLatch = s.pins.outLatch ∧ t.logs.trace = s.logs.trace)

/-- R84 with R76 and R77: DATA in a burst shifts its byte LSB first through eight clock pulses, emits the result
exactly when the burst captures, and counts down, to Idle from 1. The last bit stays on data-out, the clock is low,
the other signals keep their levels, and nothing else changes. -/
def Obligations.DataShiftsItsByteAndCountsDown : Prop :=
  ∀ (d : Byte) (s : State) (remaining : BurstLen) (capture : Bool),
    s.engine = .shiftActive remaining capture → remaining ≠ 0#6 →
    ∃ (t : State) (result : Byte), exec (.data d) s = .next t ∧ EngineFrame s t ∧
      (∀ k, k < 8 → result.getLsbD k = shiftSample s k) ∧
      t.transport.out = s.transport.out ++ (if capture then [result] else []) ∧
      (remaining = 1#6 → t.engine = .idle) ∧
      (remaining ≠ 1#6 →
        ∃ rest : BurstLen, t.engine = .shiftActive rest capture ∧ rest.toNat + 1 = remaining.toNat) ∧
      t.pins.oe = s.pins.oe ∧ t.pins.dir = s.pins.dir ∧ t.pins.auxLevel = s.pins.auxLevel ∧
      t.pins.outLatch.getLsbD 4 = d.getLsbD 7 ∧ t.pins.outLatch.getLsbD 0 = false ∧
      (∀ i, 1 ≤ i → i ≤ 3 → t.pins.outLatch.getLsbD i = s.pins.outLatch.getLsbD i) ∧
      t.logs.trace = s.logs.trace ++ shiftEvents d s ∧ (shiftEvents d s).length = 40 ∧
      (∀ k, answerAt t.env k = answerAt s.env (k + 8))

/-- The model's own choice (log 7): exec of DATA outside a burst, which no step can ask for, stops by name. -/
def Obligations.DataOutsideABurstIsRefused : Prop :=
  ∀ (d : Byte) (s : State), s.engine = .idle → exec (.data d) s = .refused .dataOutsideBurst

/-- When the core loop has the turn inside `process`, the step runs the decoded byte: exec of it in the mode's
decoding, on the state with the byte taken from the chunk and the turn taken, and then the cursor counts it (R81,
R83). The same for a word placed by withFetchWord. -/
def Obligations.StepRunsTheDecodedByte : Prop :=
  (∀ (s : State) (b : Byte) (bs : List Byte),
    nextTurn s.env = .core → s.transport.phase = .processing → s.transport.chunk = b :: bs →
    step s = andThen (exec (decode s.engine.mode b) (setChunk bs (takeTurn s))) (fun t => .next (countByte t))) ∧
  (∀ (s : State) (w : Nat),
    step (s.withFetchWord 8 w) =
      andThen (exec (decode s.engine.mode (BitVec.ofNat 8 w))
        (setChunk s.transport.chunk.tail (takeTurn (s.withFetchWord 8 w)))) (fun t => .next (countByte t)))

/-- R87: how many output bytes an instruction appends. -/
def Obligations.EachInstructionEmitsItsCount : Prop :=
  ∀ (i : Instr) (s t : State), exec i s = .next t →
    ∃ outs, t.transport.out = s.transport.out ++ outs ∧ outs.length = outputCount s.engine i

/-- R80, R105: a call of `process` completes on every list of bytes in every state, interprets each byte exactly
once, and produces at most as many output bytes as it consumes. -/
def Obligations.ProcessCompletesWithinItsOutputBound : Prop :=
  ∀ (bs : List Byte) (s : State), ∃ (t : State) (outs : List Byte), engineBytes bs s = .next t ∧
    t.transport.out = s.transport.out ++ outs ∧ outs.length ≤ bs.length ∧
    t.logs.consumed = s.logs.consumed + bs.length

/-- R93, R43: where the chunks fall makes no difference. Reading and processing `j` bytes and then `k` bytes, with
the end of a tick between them or not, leaves the engine, the pins, the trace, the target's coming answers, the stream
cursor, the FIFO and the stream of all output bytes as reading and processing the `j + k` bytes at once does. -/
def Obligations.ChunkBoundariesMakeNoDifference : Prop :=
  ∀ (j k : Nat) (s : State), Inv s → s.transport.phase = .betweenTicks → s.transport.accLen ≤ 64 → j + k ≤ 64 →
    ∃ t₁ t : State, readAndProcess j s = .next t₁ ∧ readAndProcess (j + k) s = .next t ∧
      (∃ u, tickEnd t₁ = .next u) ∧
      ∀ u, u = t₁ ∨ tickEnd t₁ = .next u →
        ∃ t₂, readAndProcess k u = .next t₂ ∧
          t₂.engine = t.engine ∧ t₂.pins = t.pins ∧ t₂.logs.trace = t.logs.trace ∧
          (∀ n, answerAt t₂.env n = answerAt t.env n) ∧ t₂.logs.consumed = t.logs.consumed ∧
          t₂.env.rxq = t.env.rxq ∧ outputStream t₂ = outputStream t

/-- R87, R89, R90: a header with length `n` and the next `n` bytes, whatever their values, are one burst: it ends in
Idle and emits one byte for each data byte if it captures, and none if it does not. -/
def Obligations.BurstEmitsOneByteForEachDataByte : Prop :=
  ∀ (c : Bool) (n : BurstLen) (ds : List Byte) (s : State),
    s.engine = .idle → n ≠ 0#6 → ds.length = n.toNat →
    ∃ (t : State) (outs : List Byte), engineBytes (encode (.shift c n) :: ds) s = .next t ∧
      t.engine = .idle ∧ t.transport.out = s.transport.out ++ outs ∧
      outs.length = (if c then n.toNat else 0) ∧
      t.logs.consumed = s.logs.consumed + 1 + n.toNat

/-- R129: a burst changes only the clock and data-out. After it the clock is low and data-out holds bit 7 of the
last data byte; the output enable is as before. -/
def Obligations.BurstMovesOnlyClockAndDataOut : Prop :=
  ∀ (c : Bool) (n : BurstLen) (ds : List Byte) (d : Byte) (s : State),
    s.engine = .idle → (ds ++ [d]).length = n.toNat →
    ∃ t : State, engineBytes (encode (.shift c n) :: (ds ++ [d])) s = .next t ∧
      t.pins.outLatch.getLsbD 0 = false ∧ t.pins.outLatch.getLsbD 4 = d.getLsbD 7 ∧
      (∀ i, 1 ≤ i → i ≤ 3 → t.pins.outLatch.getLsbD i = s.pins.outLatch.getLsbD i) ∧
      t.pins.oe = s.pins.oe ∧ t.pins.dir = s.pins.dir ∧ t.pins.auxLevel = s.pins.auxLevel

/-- R42, R76, R79: a capturing burst of any length completes, and if both inputs were wired to data-out while it ran,
it returns its data bytes unchanged and in order, not bit-reversed. That they were wired so is a condition on the
events it appends: every sample shows the data-out level that the writes before it left. The answers of log 16 are
some that meet it. -/
def Obligations.LoopbackBurstReturnsItsBytes : Prop :=
  ∀ (n : BurstLen) (ds : List Byte) (s : State),
    s.engine = .idle → n ≠ 0#6 → ds.length = n.toNat →
    (∃ (t : State) (evs : List Event), engineBytes (encode (.shift true n) :: ds) s = .next t ∧
      t.logs.trace = s.logs.trace ++ evs ∧ t.engine = .idle ∧
      t.pins.outLatch.getLsbD 4 = evs.foldl dataOutAfter (s.pins.outLatch.getLsbD 4) ∧
      (loopTrace (s.pins.outLatch.getLsbD 4) evs = true → t.transport.out = s.transport.out ++ ds)) ∧
    (∃ (t : State) (evs : List Event), engineBytesLoop (encode (.shift true n) :: ds) s = .next t ∧
      t.logs.trace = s.logs.trace ++ evs ∧ loopTrace (s.pins.outLatch.getLsbD 4) evs = true ∧
      t.transport.out = s.transport.out ++ ds)

/-- R126, R79: a BITBANG byte with its read flag set completes, and if both inputs were wired to data-out while it
ran, it reports the data-out level of before it, whatever levels it writes. That they were wired so is a condition on
the events it appends: every sample shows the data-out level that the writes before it left. The answers of log 16 are
some that meet it. -/
def Obligations.LoopbackSampleShowsTheLevelBefore : Prop :=
  ∀ (o : Bool) (p : Levels) (s : State), s.engine = .idle →
    (∃ (t : State) (evs : List Event), engineByte (encode (.bitbang true o p)) s = .next t ∧
      t.logs.trace = s.logs.trace ++ evs ∧ t.pins.outLatch = p ∧
      t.pins.outLatch.getLsbD 4 = evs.foldl dataOutAfter (s.pins.outLatch.getLsbD 4) ∧
      (loopTrace (s.pins.outLatch.getLsbD 4) evs = true →
        t.transport.out = s.transport.out ++ [if s.pins.outLatch.getLsbD 4 then 0x03#8 else 0x00#8])) ∧
    (∃ (t : State) (evs : List Event), engineByteLoop (encode (.bitbang true o p)) s = .next t ∧
      t.logs.trace = s.logs.trace ++ evs ∧ loopTrace (s.pins.outLatch.getLsbD 4) evs = true)

/-- R89: the full transition relation of the engine. -/
def Obligations.EngineFollowsItsTransitionTable : Prop :=
  (∀ (b : Byte) (s : State), s.engine = .idle → b.getLsbD 7 = false →
    ∃ t, engineByte b s = .next t ∧ t.engine = .idle) ∧
  (∀ (b : Byte) (s : State), s.engine = .idle → b.getLsbD 7 = true →
    ∃ t, engineByte b s = .next t ∧
      t.engine = (if b.toNat % 64 = 0 then .idle else .shiftActive (BitVec.ofNat 6 b.toNat) (b.getLsbD 6))) ∧
  (∀ (b : Byte) (s : State) (k : BurstLen) (c : Bool), s.engine = .shiftActive k c → 2 ≤ k.toNat →
    ∃ t, engineByte b s = .next t ∧ t.engine = .shiftActive (BitVec.ofNat 6 (k.toNat - 1)) c) ∧
  (∀ (b : Byte) (s : State) (c : Bool), s.engine = .shiftActive 1#6 c →
    ∃ t, engineByte b s = .next t ∧ t.engine = .idle) ∧
  (∀ s : State, (engineReset s).engine = .idle)

/-- R52: what the engine does with a byte depends on nothing but the byte, the engine state, `oe`, `out_latch` and
the target's answers (and the configuration). Two states that agree on these do the same pin events, emit the same
bytes and agree afterwards, whatever the rest of them holds. -/
def Obligations.EngineByteDependsOnEngineAndPinsOnly : Prop :=
  ∀ (b : Byte) (s₁ s₂ : State),
    s₁.cfg = s₂.cfg → s₁.engine = s₂.engine → s₁.pins.oe = s₂.pins.oe → s₁.pins.outLatch = s₂.pins.outLatch →
    (∀ k, answerAt s₁.env k = answerAt s₂.env k) →
    ∃ (t₁ t₂ : State) (evs : List Event) (outs : List Byte),
      engineByte b s₁ = .next t₁ ∧ engineByte b s₂ = .next t₂ ∧
      t₁.engine = t₂.engine ∧ t₁.pins.oe = t₂.pins.oe ∧ t₁.pins.outLatch = t₂.pins.outLatch ∧
      t₁.logs.trace = s₁.logs.trace ++ evs ∧ t₂.logs.trace = s₂.logs.trace ++ evs ∧
      t₁.transport.out = s₁.transport.out ++ outs ∧ t₂.transport.out = s₂.transport.out ++ outs ∧
      (∀ k, answerAt t₁.env k = answerAt t₂.env k)

/-! ### The Signal Layer -/

/-- R69: PinWrite changes exactly the latch bits in the mask, whatever they held, logs the masked value, and leaves
everything else alone. -/
def Obligations.PinWriteChangesExactlyTheMaskedBits : Prop :=
  ∀ (m v : Levels) (s : State),
    (∀ i : Nat, (pinWrite m v s).pins.outLatch.getLsbD i =
      if m.getLsbD i then v.getLsbD i else s.pins.outLatch.getLsbD i) ∧
    pinWrite m v s =
      { s with
        pins := { s.pins with outLatch := (pinWrite m v s).pins.outLatch }
        logs := { s.logs with trace := s.logs.trace ++ [.w m (v &&& m)] } }

/-- R70, R45: a sample returns the target's answer, logs it, and changes no state of the CORE; the same for a delay
and for the indicator call (R72, R73). -/
def Obligations.SamplesAndDelaysOnlyLog : Prop :=
  ∀ s : State,
    (∃ t, pinSample2 s = (answerAt s.env 0, t) ∧
      t = { s with
            logs := { s.logs with trace := s.logs.trace ++ [.s2 (answerAt s.env 0)] }
            env := t.env } ∧
      t.env = { s.env with answers := t.env.answers, answerNo := t.env.answerNo } ∧
      (∀ k, answerAt t.env k = answerAt s.env (k + 1))) ∧
    (∀ j : Input, ∃ t, pinSample1 j s = ((answerAt s.env 0).getLsbD j.index, t) ∧
      t = { s with
            logs := { s.logs with trace := s.logs.trace ++ [.s1 j ((answerAt s.env 0).getLsbD j.index)] }
            env := t.env } ∧
      t.env = { s.env with answers := t.env.answers, answerNo := t.env.answerNo } ∧
      (∀ k, answerAt t.env k = answerAt s.env (k + 1))) ∧
    (∀ k, delay k s = { s with logs := { s.logs with trace := s.logs.trace ++ [.dly k] } }) ∧
    (∀ e, indicator e s = { s with logs := { s.logs with trace := s.logs.trace ++ [.ind e] } })

/-- R74: setOutputEnable is a no-op without a change; with one it writes `oe`, then the enable pin and its settle
wait, or the direction, then tells the indicator. The latch is not changed. -/
def Obligations.SetOutputEnableIsDebounced : Prop :=
  ∀ (e : Bool) (s : State),
    (e = s.pins.oe → setOutputEnable e s = s) ∧
    (e ≠ s.pins.oe → s.cfg.oeMode = .aux →
      setOutputEnable e s =
        { s with
          pins := { s.pins with oe := e, auxLevel := if e then s.cfg.auxActive else !s.cfg.auxActive }
          logs := { s.logs with trace := s.logs.trace ++
            [.aux (if e then s.cfg.auxActive else !s.cfg.auxActive), .dly .oeSettle, .ind e] } }) ∧
    (e ≠ s.pins.oe → s.cfg.oeMode = .direct →
      setOutputEnable e s =
        { s with
          pins := { s.pins with oe := e, dir := e }
          logs := { s.logs with trace := s.logs.trace ++ [.dir e, .ind e] } })

/-- R23: in every state of the invariant the target sees the latch exactly when `oe` is 1, and a floating line
otherwise, in both modes. -/
def Obligations.BusShowsTheLatchExactlyWhenEnabled : Prop :=
  ∀ s : State, Inv s → ∀ i : Fin 5,
    bus s i = if s.pins.oe then some (s.pins.outLatch.getLsbD i) else none

/-- R127 and the corner case of R120: right after a change of the output enable, before the byte's own levels are
written, an enabled bus shows the old latch and a disabled one floats. -/
def Obligations.EnableChangeShowsTheOldLatchOrFloats : Prop :=
  ∀ (e : Bool) (s : State), e ≠ s.pins.oe → ∀ i : Fin 5,
    bus (setOutputEnable e s) i = if e then some (s.pins.outLatch.getLsbD i) else none

/-- R68: initialize sets the pins up once, and a call after that has no effect. -/
def Obligations.InitializeActsOnce : Prop :=
  (∀ s : State, s.pins.initDone = true → initializePins s = s) ∧
  (∀ s : State, s.pins.initDone = false →
    (initializePins s).pins.outLatch = 0b00000#5 ∧ (initializePins s).pins.oe = false ∧
    (initializePins s).pins.initDone = true ∧
    (s.cfg.oeMode = .direct →
      (initializePins s).pins.dir = false ∧ (initializePins s).pins.auxLevel = s.pins.auxLevel) ∧
    (s.cfg.oeMode = .aux →
      (initializePins s).pins.dir = true ∧ (initializePins s).pins.auxLevel = !s.cfg.auxActive) ∧
    { initializePins s with pins := s.pins } = s)

/-- R36: placed on the GPIO word, the five levels are on the pins `PIN_BASE + i` and on no other pin; the two inputs
follow them, and the auxiliary pin of a well-formed configuration is none of the seven. -/
def Obligations.GpioWordCarriesTheLevels : Prop :=
  ∀ (c : Config) (v : Levels),
    (∀ i : Fin 5, (gpioWord c v).testBit (writablePin c i) = v.getLsbD i) ∧
    (∀ g, (∀ i : Fin 5, g ≠ writablePin c i) → (gpioWord c v).testBit g = false) ∧
    readablePin c .dataIn = c.pinBase + 5 ∧ readablePin c .status = c.pinBase + 6 ∧
    (c.wf = true → (∀ i : Fin 5, c.auxPin ≠ writablePin c i) ∧ ∀ j, c.auxPin ≠ readablePin c j)

/-! ### Power-on, reset and lifecycle events -/

/-- R29, R34: the values at power-on. -/
def Obligations.PowerOnValues : Prop :=
  State.reset.engine = .idle ∧ State.reset.pins.oe = false ∧ State.reset.pins.outLatch = 0b00000#5 ∧
  (State.reset.cfg.oeMode = .direct → State.reset.pins.dir = false) ∧
  (State.reset.cfg.oeMode = .aux →
    State.reset.pins.dir = true ∧ State.reset.pins.auxLevel = !State.reset.cfg.auxActive) ∧
  State.reset.pins.initDone = true ∧ State.reset.transport.accLen = 0 ∧ State.reset.transport.lastFlush = 0 ∧
  (∀ a, Memory.read? State.reset.transport.acc a = none) ∧
  State.reset.logs.trace = [] ∧ State.reset.logs.txlog = [] ∧ State.reset.logs.consumed = 0

/-- R120, R122, R121: reset from any state gives Idle, output disabled and five low levels, by the events R120 lists,
the last of them the masked write of all five; and it leaves everything else alone. -/
def Obligations.ResetFromAnyState : Prop :=
  ∀ s : State,
    (engineReset s).engine = .idle ∧ (engineReset s).pins.oe = false ∧
    (engineReset s).pins.outLatch = 0b00000#5 ∧
    (engineReset s).pins.dir = dirAfter s.cfg s.pins false ∧
    (engineReset s).pins.auxLevel = auxAfter s.cfg s.pins false ∧
    (engineReset s).pins.initDone = s.pins.initDone ∧
    (engineReset s).logs.trace =
      s.logs.trace ++ oeEvents s.cfg s.pins.oe false ++ [.w 0b11111#5 0b00000#5] ∧
    (engineReset s).logs.txlog = s.logs.txlog ∧ (engineReset s).logs.consumed = s.logs.consumed ∧
    (engineReset s).cfg = s.cfg ∧ (engineReset s).transport = s.transport ∧ (engineReset s).env = s.env

/-- R106, R109: a lifecycle event taken at its turn runs `reset()` and nothing else, for bus reset, mount and resume
always, for unmount and suspend exactly if the parameter says so; otherwise it changes nothing. -/
def Obligations.LifecycleEventsRunReset : Prop :=
  ∀ (s : State) (e : Lifecycle), nextTurn s.env = .event e →
    (e = .busReset ∨ e = .mount ∨ e = .resume ∨ s.cfg.resetOnUnmountSuspend = true →
      step s = .next (engineReset (takeTurn s))) ∧
    (e = .unmount ∨ e = .suspend → s.cfg.resetOnUnmountSuspend = false → step s = .next (takeTurn s))

/-- R108: a second reset right after a first one leaves the same state and adds only the masked write to the
trace. -/
def Obligations.SecondResetAddsOneWrite : Prop :=
  ∀ s : State,
    engineReset (engineReset s) =
      { engineReset s with
        logs := { (engineReset s).logs with
          trace := (engineReset s).logs.trace ++ [.w 0b11111#5 0b00000#5] } }

/-- R123: power-on leaves the engine and signal state that `reset()` leaves; the difference shows only in the
trace. -/
def Obligations.PowerOnEqualsResetButForTheTrace : Prop :=
  ∀ c : Config,
    engineReset (State.powerOn c) =
      { State.powerOn c with
        logs := { (State.powerOn c).logs with trace := [.w 0b11111#5 0b00000#5] } }

/-- R107: where an event falls relative to the end of a tick makes no difference to the state: taking it before
steps 3 and 4 and taking it after them give the same. -/
def Obligations.EventsAndTheFlushCommute : Prop :=
  ∀ (e : Lifecycle) (s t : State), tickEnd s = .next t → tickEnd (takeEvent e s) = .next (takeEvent e t)

/-- R119, R90, R65: the engine state changes only when the core loop interprets a byte or a lifecycle event that
resets is taken; nothing else leaves a burst. -/
def Obligations.OnlyBytesAndResetsMoveTheEngine : Prop :=
  ∀ s t : State, step s = .next t → t.engine ≠ s.engine →
    (nextTurn s.env = .core ∧ s.transport.phase = .processing ∧ s.transport.chunk ≠ []) ∨
    (∃ e, nextTurn s.env = .event e ∧ eventResets s.cfg e = true ∧ t.engine = .idle)

/-! ### The Transport Adapter -/

/-- R94: with the link inactive a tick drops the pending output and does nothing else. -/
def Obligations.InactiveLinkDropsPendingOutput : Prop :=
  ∀ s : State, nextTurn s.env = .core → s.transport.phase = .betweenTicks → s.env.linkActive = false →
    ∃ t, step s = .next t ∧ t.transport.accLen = 0 ∧ (∀ a, Memory.read? t.transport.acc a = none) ∧
      t.transport.phase = .betweenTicks ∧ t.transport.chunk = s.transport.chunk ∧
      t.transport.out = s.transport.out ∧ t.transport.lastFlush = s.transport.lastFlush ∧
      t.cfg = s.cfg ∧ t.engine = s.engine ∧ t.pins = s.pins ∧ t.logs = s.logs ∧ t.env = (takeTurn s).env

/-- R93: with the link active, bytes waiting and at most 64 bytes unsent, a tick reads one chunk from the front of
the FIFO, of the size drawn, and gives it to `process` with an empty output list. When that guard is false it reads
nothing: it goes to steps 3 and 4 with everything else as it is. -/
def Obligations.TickReadsOneChunkInOrderOrNothing : Prop :=
  (∀ s : State, nextTurn s.env = .core → s.transport.phase = .betweenTicks → s.env.linkActive = true →
    s.env.rxq ≠ [] → s.transport.accLen ≤ 64 →
    ∃ (k : Nat) (t : State), step s = .next t ∧
      1 ≤ k ∧ k ≤ 64 ∧ k ≤ s.env.rxq.length ∧
      (1 ≤ s.env.rxTake → s.env.rxTake ≤ 64 → s.env.rxTake ≤ s.env.rxq.length → k = s.env.rxTake) ∧
      t.transport.phase = .processing ∧ t.transport.out = [] ∧ t.transport.chunk.length = k ∧
      t.transport.chunk ++ t.env.rxq = s.env.rxq ∧
      t.env = { (takeTurn s).env with rxq := t.env.rxq } ∧
      (∀ a, Memory.read? t.transport.acc a = Memory.read? s.transport.acc a) ∧
      t.transport.accLen = s.transport.accLen ∧ t.transport.lastFlush = s.transport.lastFlush ∧
      t.cfg = s.cfg ∧ t.engine = s.engine ∧ t.pins = s.pins ∧ t.logs = s.logs) ∧
  (∀ s : State, nextTurn s.env = .core → s.transport.phase = .betweenTicks → s.env.linkActive = true →
    s.env.rxq = [] ∨ 64 < s.transport.accLen →
    step s = .next { takeTurn s with transport := { s.transport with phase := .flushing } })

/-- R100: while more than 64 output bytes are unsent, no step of any agent takes an inbound byte: the FIFO only
grows at its tail and the cursor stands still. -/
def Obligations.BackpressureStopsInboundReads : Prop :=
  ∀ s t : State, Inv s → 64 < s.transport.accLen → step s = .next t →
    s.env.rxq <+: t.env.rxq ∧ t.transport.chunk = [] ∧ t.logs.consumed = s.logs.consumed

/-- R91, R93: when `process` returns, its output bytes are at the end of the accumulator, in order, behind the bytes
already there. -/
def Obligations.OutputEntersTheAccumulatorInOrder : Prop :=
  ∀ s : State, Inv s → nextTurn s.env = .core → s.transport.phase = .processing → s.transport.chunk = [] →
    ∃ t, step s = .next t ∧
      (∀ a, a < s.transport.accLen →
        Memory.read? t.transport.acc a = Memory.read? s.transport.acc a) ∧
      (∀ k, k < s.transport.out.length →
        Memory.read? t.transport.acc (s.transport.accLen + k) = s.transport.out[k]?) ∧
      (∀ a, s.transport.accLen + s.transport.out.length ≤ a → Memory.read? t.transport.acc a = none) ∧
      t.transport.accLen = s.transport.accLen + s.transport.out.length ∧
      t.transport.out = [] ∧ t.transport.chunk = [] ∧ t.transport.phase = .flushing ∧
      t.transport.lastFlush = s.transport.lastFlush ∧
      t.cfg = s.cfg ∧ t.engine = s.engine ∧ t.pins = s.pins ∧ t.logs = s.logs ∧ t.env = (takeTurn s).env

/-- R95, R92: a flush is due when the accumulator and the header reach 64 bytes or more than 10 ms have passed since
the last flush: by natural subtraction on an unbounded timer; modulo `2^w` on a `w`-bit one, where the tick reads the
time modulo `2^w`. There, while less than a wrap period has passed since the last flush, it is the true time passed
that counts. -/
def Obligations.FlushIsDueBySizeOrByTime : Prop :=
  ∀ s : State,
    (s.cfg.timerBits = none →
      (flushDue (timerRead s) s = true ↔
        64 ≤ s.transport.accLen + 2 ∨ 10 < s.env.now - s.transport.lastFlush)) ∧
    (∀ w, s.cfg.timerBits = some w →
      (flushDue (timerRead s) s = true ↔
        64 ≤ s.transport.accLen + 2 ∨
        (10 : Int) < (((s.env.now % 2 ^ w : Nat) : Int) - (s.transport.lastFlush : Int)) % (2 ^ w : Int))) ∧
    (∀ w f, s.cfg.timerBits = some w → s.transport.lastFlush = f % 2 ^ w → f ≤ s.env.now → s.env.now - f < 2 ^ w →
      (flushDue (timerRead s) s = true ↔ 64 ≤ s.transport.accLen + 2 ∨ 10 < s.env.now - f))

/-- R92: on a wrapping timer of `w` bits the elapsed time is right across a wrap: two readings less than a wrap
period apart differ by the milliseconds between them. -/
def Obligations.ElapsedTimeIsRightAcrossAWrap : Prop :=
  ∀ (c : Config) (w a b : Nat), c.timerBits = some w → a ≤ b → b - a < 2 ^ w →
    elapsed c (b % 2 ^ w) (a % 2 ^ w) = b - a

/-- R96, R97, R98: a due flush with the channel ready sends one frame, the header and the oldest unsent bytes, 62 at
most, records the timer, and moves the rest to the front. -/
def Obligations.FlushSendsTheOldestBytes : Prop :=
  ∀ s : State, Inv s → nextTurn s.env = .core → s.transport.phase = .flushing →
    flushDue (timerRead s) s = true → s.env.txReady = true →
    ∃ (t : State) (payload : List Byte), step s = .next t ∧
      payload.length = min s.transport.accLen 62 ∧
      (∀ k, k < payload.length → payload[k]? = Memory.read? s.transport.acc k) ∧
      t.logs.txlog = s.logs.txlog ++ [s.cfg.hdr0 :: s.cfg.hdr1 :: payload] ∧
      t.transport.accLen = s.transport.accLen - payload.length ∧
      (∀ a, Memory.read? t.transport.acc a = Memory.read? s.transport.acc (a + payload.length)) ∧
      t.transport.lastFlush = timerRead s ∧ t.transport.phase = .betweenTicks ∧
      t.transport.chunk = s.transport.chunk ∧ t.transport.out = s.transport.out ∧
      t.logs.trace = s.logs.trace ∧ t.logs.consumed = s.logs.consumed ∧
      t.cfg = s.cfg ∧ t.engine = s.engine ∧ t.pins = s.pins ∧ t.env = (takeTurn s).env

/-- R96: a tick whose flush is not due, or whose channel is not ready, sends nothing and changes nothing: the
accumulator and the flush time stay for the next tick. -/
def Obligations.TickWithoutAFlushChangesNothing : Prop :=
  ∀ s : State, nextTurn s.env = .core → s.transport.phase = .flushing →
    (flushDue (timerRead s) s = false ∨ s.env.txReady = false) →
    step s = .next { takeTurn s with transport := { s.transport with phase := .betweenTicks } }

/-- R101: once a flush is due it stays due through every step that neither sends a frame nor drops the output. -/
def Obligations.DueFlushStaysDue : Prop :=
  ∀ s t : State, s.cfg.timerBits = none → flushDue (timerRead s) s = true → step s = .next t →
    t.logs.txlog = s.logs.txlog → ¬ dropsOutput s → flushDue (timerRead t) t = true

/-- R103: a flush that is due by time with nothing unsent sends the two header bytes alone. -/
def Obligations.IdleFlushSendsTheHeaderAlone : Prop :=
  ∀ s : State, nextTurn s.env = .core → s.transport.phase = .flushing → s.transport.accLen = 0 →
    10 < elapsed s.cfg (timerRead s) s.transport.lastFlush → s.env.txReady = true →
    ∃ t, step s = .next t ∧ t.logs.txlog = s.logs.txlog ++ [[s.cfg.hdr0, s.cfg.hdr1]] ∧
      t.transport.lastFlush = timerRead s ∧ t.transport.accLen = 0

/-- R104: with at least 62 bytes unsent and the channel ready, the frame is a full one of 64 bytes, whatever the
time. -/
def Obligations.BacklogSendsFullFrames : Prop :=
  ∀ s : State, Inv s → nextTurn s.env = .core → s.transport.phase = .flushing →
    62 ≤ s.transport.accLen → s.env.txReady = true →
    ∃ (t : State) (f : List Byte), step s = .next t ∧ t.logs.txlog = s.logs.txlog ++ [f] ∧ f.length = 64 ∧
      t.transport.accLen = s.transport.accLen - 62

/-- R33: the host appends at the tail of the FIFO while there is room, and cannot while it is full; nothing else
changes. -/
def Obligations.HostAppendsWhileThereIsRoom : Prop :=
  ∀ (s : State) (b : Byte), nextTurn s.env = .rx b →
    (s.env.rxq.length < s.cfg.rxFifoCap →
      step s = .next { takeTurn s with env := { (takeTurn s).env with rxq := s.env.rxq ++ [b] } }) ∧
    (s.cfg.rxFifoCap ≤ s.env.rxq.length → step s = .next (takeTurn s))

/-- The model's choice (log 3): `link_active`, `tx_ready`, the size drawn for the next receive and the timer are
fields that a turn of their own changes. Such a turn changes its own field and nothing else, so nothing of the CORE,
as R33 has it of the environment. -/
def Obligations.EnvironmentTurnsChangeTheirOwnField : Prop :=
  ∀ s : State,
    (∀ up, nextTurn s.env = .link up →
      step s = .next { takeTurn s with env := { (takeTurn s).env with linkActive := up } }) ∧
    (∀ r, nextTurn s.env = .ready r →
      step s = .next { takeTurn s with env := { (takeTurn s).env with txReady := r } }) ∧
    (∀ k, nextTurn s.env = .receive k →
      step s = .next { takeTurn s with env := { (takeTurn s).env with rxTake := k } }) ∧
    (∀ ms, nextTurn s.env = .elapse ms →
      step s = .next { takeTurn s with env := { (takeTurn s).env with now := s.env.now + ms } })

/-- R92: the timer never goes back. The second clause is the model's choice (log 3), since R92 calls the readings
draws apart from that: only a turn of the timer moves it, by that turn's milliseconds. -/
def Obligations.TimeNeverDecreases : Prop :=
  ∀ s t : State, step s = .next t →
    s.env.now ≤ t.env.now ∧
    (t.env.now ≠ s.env.now → ∃ ms, nextTurn s.env = .elapse ms ∧ t.env.now = s.env.now + ms)

/-- R40: MemWrite is legal exactly below `ACC_CAP`, and MemRead exactly up to `acc_len`; beyond, the model fault is
AccOverflow. A write changes its own byte and no other; a read gives every listed byte as it is (one that holds no value
is free, log 10). -/
def Obligations.AccumulatorAccessesAreBounded : Prop :=
  (∀ (a : Nat) (v : Byte) (s : State), a < s.cfg.accCap →
    ∃ t, memWrite a v s = .next t ∧ Memory.read? t.transport.acc a = some v ∧
      (∀ b, b ≠ a → Memory.read? t.transport.acc b = Memory.read? s.transport.acc b) ∧
      t = { s with transport := { s.transport with acc := t.transport.acc } }) ∧
  (∀ (a : Nat) (v : Byte) (s : State), s.cfg.accCap ≤ a → memWrite a v s = .fault .accOverflow) ∧
  (∀ (a n : Nat) (s : State), a + n ≤ s.transport.accLen →
    ∃ bs, memRead a n s = .ok bs ∧ bs.length = n ∧
      ∀ k v, k < n → Memory.read? s.transport.acc (a + k) = some v → bs[k]? = some v) ∧
  (∀ (a n : Nat) (s : State), s.transport.accLen < a + n → memRead a n s = .error .accOverflow)

/-- R49, R41, R48: no step loses, changes or reorders an engine output byte, but for the link-inactive drop: the
stream of bytes sent, accumulated and just produced only grows at its end. -/
def Obligations.OutputIsNeverLostOrReordered : Prop :=
  ∀ s t : State, Inv s → step s = .next t → ¬ dropsOutput s → outputStream s <+: outputStream t

/-- R49: inbound bytes are never dropped: a core step moves them from the FIFO to the chunk and from the chunk to
the engine, and their number is conserved. -/
def Obligations.InboundBytesAreNeverDropped : Prop :=
  ∀ s t : State, Inv s → nextTurn s.env = .core → step s = .next t → inboundCount t = inboundCount s

/-- R31: neither log is ever cleared or rewritten. -/
def Obligations.LogsAreAppendOnly : Prop :=
  ∀ s t : State, step s = .next t → s.logs.trace <+: t.logs.trace ∧ s.logs.txlog <+: t.logs.txlog

/-- R18: every engine byte step adds exactly 1 to the cursor, and no other step moves it. -/
def Obligations.CursorCountsEngineBytes : Prop :=
  ∀ s t : State, step s = .next t →
    (nextTurn s.env = .core ∧ s.transport.phase = .processing ∧ s.transport.chunk ≠ [] →
      t.logs.consumed = s.logs.consumed + 1) ∧
    (¬ (nextTurn s.env = .core ∧ s.transport.phase = .processing ∧ s.transport.chunk ≠ []) →
      t.logs.consumed = s.logs.consumed)

/-- R12, R24: no step changes the configuration or clears the initialization guard. -/
def Obligations.ConfigurationAndGuardNeverChange : Prop :=
  ∀ s t : State, step s = .next t → t.cfg = s.cfg ∧ t.pins.initDone = s.pins.initDone

/-- R91 against the model's cut of a tick into core steps (log 4): the core steps of one tick, with no other agent moving between them, do together exactly what the service
tick of R91 does, faults included. -/
def Obligations.CoreStepsMakeUpTheServiceTick : Prop :=
  ∀ (s : State) (rest : List Turn), s.transport.phase = .betweenTicks →
    s.env.turns = List.replicate (tickSteps s) .core ++ rest →
    Host.Core.run Sys2Proof.core (tickSteps s) s =
      serviceTick { s with env := { s.env with turns := rest, turnNo := s.env.turnNo + tickSteps s } }

/-! ### The invariant -/

/-- The invariant holds at power-on. -/
def Obligations.InvariantHoldsAtPowerOn : Prop := Inv State.reset

/-- R16, R21, R22, R24, R25, R33, R80, R98, R99: every step of every agent keeps the invariant. -/
def Obligations.EveryStepKeepsTheInvariant : Prop :=
  ∀ s t : State, Inv s → step s = .next t → Inv t

/-- R105, R99, R118: in a state of the invariant every step completes: there is no fault and no refusal, whatever the
bytes, the answers and the order of events. -/
def Obligations.EveryStepCompletesUnderTheInvariant : Prop :=
  ∀ s : State, Inv s → ∃ t, step s = .next t

/-- R63, R105, R40: in any state, no step refuses anything, since the decoder gives every byte a meaning in its
mode; and a step faults exactly where the output of `process` passes the bound of the accumulator, with the one fault
`AccOverflow`. No byte, sample or flush raises. -/
def Obligations.NoStepIsRefusedAndOnlyOverflowFaults : Prop :=
  (∀ (s : State) (r : Refusal), step s ≠ .refused r) ∧
  (∀ s : State, step s = .fault .accOverflow ↔
    nextTurn s.env = .core ∧ s.transport.phase = .processing ∧ s.transport.chunk = [] ∧ s.transport.out ≠ [] ∧
      s.cfg.accCap < s.transport.accLen + s.transport.out.length) ∧
  (∀ (s : State) (f : Fault), step s = .fault f → f = .accOverflow)
end

