-- ==== Sys2Proof/Laws/State.lean ====
section
/-! SUPPORT. One lemma per field per update: what each named update of the state writes, and that it leaves every
other group and field alone. A group that an update leaves alone has one lemma for the whole group. -/

namespace Sys2Proof.Machine

/-! ### logEvent -/

@[simp] theorem logEvent_cfg (e : Event) (s : State) : (logEvent e s).cfg = s.cfg := rfl
@[simp] theorem logEvent_engine (e : Event) (s : State) : (logEvent e s).engine = s.engine := rfl
@[simp] theorem logEvent_pins (e : Event) (s : State) : (logEvent e s).pins = s.pins := rfl
@[simp] theorem logEvent_transport (e : Event) (s : State) : (logEvent e s).transport = s.transport := rfl
@[simp] theorem logEvent_trace (e : Event) (s : State) : (logEvent e s).logs.trace = s.logs.trace ++ [e] := rfl
@[simp] theorem logEvent_txlog (e : Event) (s : State) : (logEvent e s).logs.txlog = s.logs.txlog := rfl
@[simp] theorem logEvent_consumed (e : Event) (s : State) : (logEvent e s).logs.consumed = s.logs.consumed := rfl
@[simp] theorem logEvent_env (e : Event) (s : State) : (logEvent e s).env = s.env := rfl

/-! ### pinWrite -/

@[simp] theorem pinWrite_cfg (m v : Levels) (s : State) : (pinWrite m v s).cfg = s.cfg := rfl
@[simp] theorem pinWrite_engine (m v : Levels) (s : State) : (pinWrite m v s).engine = s.engine := rfl
@[simp] theorem pinWrite_oe (m v : Levels) (s : State) : (pinWrite m v s).pins.oe = s.pins.oe := rfl
@[simp] theorem pinWrite_outLatch (m v : Levels) (s : State) :
    (pinWrite m v s).pins.outLatch = (s.pins.outLatch &&& ~~~m) ||| (v &&& m) := rfl
@[simp] theorem pinWrite_dir (m v : Levels) (s : State) : (pinWrite m v s).pins.dir = s.pins.dir := rfl
@[simp] theorem pinWrite_auxLevel (m v : Levels) (s : State) : (pinWrite m v s).pins.auxLevel = s.pins.auxLevel := rfl
@[simp] theorem pinWrite_initDone (m v : Levels) (s : State) : (pinWrite m v s).pins.initDone = s.pins.initDone := rfl
@[simp] theorem pinWrite_transport (m v : Levels) (s : State) : (pinWrite m v s).transport = s.transport := rfl
@[simp] theorem pinWrite_trace (m v : Levels) (s : State) :
    (pinWrite m v s).logs.trace = s.logs.trace ++ [.w m (v &&& m)] := rfl
@[simp] theorem pinWrite_txlog (m v : Levels) (s : State) : (pinWrite m v s).logs.txlog = s.logs.txlog := rfl
@[simp] theorem pinWrite_consumed (m v : Levels) (s : State) : (pinWrite m v s).logs.consumed = s.logs.consumed := rfl
@[simp] theorem pinWrite_env (m v : Levels) (s : State) : (pinWrite m v s).env = s.env := rfl

/-! ### takeAnswer -/

@[simp] theorem takeAnswer_cfg (s : State) : (takeAnswer s).cfg = s.cfg := rfl
@[simp] theorem takeAnswer_engine (s : State) : (takeAnswer s).engine = s.engine := rfl
@[simp] theorem takeAnswer_pins (s : State) : (takeAnswer s).pins = s.pins := rfl
@[simp] theorem takeAnswer_transport (s : State) : (takeAnswer s).transport = s.transport := rfl
@[simp] theorem takeAnswer_logs (s : State) : (takeAnswer s).logs = s.logs := rfl
@[simp] theorem takeAnswer_rxq (s : State) : (takeAnswer s).env.rxq = s.env.rxq := rfl
@[simp] theorem takeAnswer_linkActive (s : State) : (takeAnswer s).env.linkActive = s.env.linkActive := rfl
@[simp] theorem takeAnswer_txReady (s : State) : (takeAnswer s).env.txReady = s.env.txReady := rfl
@[simp] theorem takeAnswer_rxTake (s : State) : (takeAnswer s).env.rxTake = s.env.rxTake := rfl
@[simp] theorem takeAnswer_now (s : State) : (takeAnswer s).env.now = s.env.now := rfl
@[simp] theorem takeAnswer_answers (s : State) : (takeAnswer s).env.answers = s.env.answers.tail := rfl
@[simp] theorem takeAnswer_answerNo (s : State) : (takeAnswer s).env.answerNo = s.env.answerNo + 1 := rfl
@[simp] theorem takeAnswer_turns (s : State) : (takeAnswer s).env.turns = s.env.turns := rfl
@[simp] theorem takeAnswer_turnNo (s : State) : (takeAnswer s).env.turnNo = s.env.turnNo := rfl

/-! ### pinSample2 -/

@[simp] theorem pinSample2_state_cfg (s : State) : (pinSample2 s).2.cfg = s.cfg := rfl
@[simp] theorem pinSample2_state_engine (s : State) : (pinSample2 s).2.engine = s.engine := rfl
@[simp] theorem pinSample2_state_pins (s : State) : (pinSample2 s).2.pins = s.pins := rfl
@[simp] theorem pinSample2_state_transport (s : State) : (pinSample2 s).2.transport = s.transport := rfl
@[simp] theorem pinSample2_state_trace (s : State) :
    (pinSample2 s).2.logs.trace = s.logs.trace ++ [.s2 (nextAnswer s.env)] := rfl
@[simp] theorem pinSample2_state_txlog (s : State) : (pinSample2 s).2.logs.txlog = s.logs.txlog := rfl
@[simp] theorem pinSample2_state_consumed (s : State) : (pinSample2 s).2.logs.consumed = s.logs.consumed := rfl
@[simp] theorem pinSample2_state_rxq (s : State) : (pinSample2 s).2.env.rxq = s.env.rxq := rfl
@[simp] theorem pinSample2_state_linkActive (s : State) : (pinSample2 s).2.env.linkActive = s.env.linkActive := rfl
@[simp] theorem pinSample2_state_txReady (s : State) : (pinSample2 s).2.env.txReady = s.env.txReady := rfl
@[simp] theorem pinSample2_state_rxTake (s : State) : (pinSample2 s).2.env.rxTake = s.env.rxTake := rfl
@[simp] theorem pinSample2_state_now (s : State) : (pinSample2 s).2.env.now = s.env.now := rfl
@[simp] theorem pinSample2_state_answers (s : State) : (pinSample2 s).2.env.answers = s.env.answers.tail := rfl
@[simp] theorem pinSample2_state_answerNo (s : State) : (pinSample2 s).2.env.answerNo = s.env.answerNo + 1 := rfl
@[simp] theorem pinSample2_state_turns (s : State) : (pinSample2 s).2.env.turns = s.env.turns := rfl
@[simp] theorem pinSample2_state_turnNo (s : State) : (pinSample2 s).2.env.turnNo = s.env.turnNo := rfl

/-! ### pinSample1 -/

@[simp] theorem pinSample1_state_cfg (j : Input) (s : State) : (pinSample1 j s).2.cfg = s.cfg := rfl
@[simp] theorem pinSample1_state_engine (j : Input) (s : State) : (pinSample1 j s).2.engine = s.engine := rfl
@[simp] theorem pinSample1_state_pins (j : Input) (s : State) : (pinSample1 j s).2.pins = s.pins := rfl
@[simp] theorem pinSample1_state_transport (j : Input) (s : State) : (pinSample1 j s).2.transport = s.transport := rfl
@[simp] theorem pinSample1_state_trace (j : Input) (s : State) :
    (pinSample1 j s).2.logs.trace = s.logs.trace ++ [.s1 j ((nextAnswer s.env).getLsbD j.index)] := rfl
@[simp] theorem pinSample1_state_txlog (j : Input) (s : State) : (pinSample1 j s).2.logs.txlog = s.logs.txlog := rfl
@[simp] theorem pinSample1_state_consumed (j : Input) (s : State) :
    (pinSample1 j s).2.logs.consumed = s.logs.consumed := rfl
@[simp] theorem pinSample1_state_rxq (j : Input) (s : State) : (pinSample1 j s).2.env.rxq = s.env.rxq := rfl
@[simp] theorem pinSample1_state_linkActive (j : Input) (s : State) :
    (pinSample1 j s).2.env.linkActive = s.env.linkActive := rfl
@[simp] theorem pinSample1_state_txReady (j : Input) (s : State) :
    (pinSample1 j s).2.env.txReady = s.env.txReady := rfl
@[simp] theorem pinSample1_state_rxTake (j : Input) (s : State) : (pinSample1 j s).2.env.rxTake = s.env.rxTake := rfl
@[simp] theorem pinSample1_state_now (j : Input) (s : State) : (pinSample1 j s).2.env.now = s.env.now := rfl
@[simp] theorem pinSample1_state_answers (j : Input) (s : State) :
    (pinSample1 j s).2.env.answers = s.env.answers.tail := rfl
@[simp] theorem pinSample1_state_answerNo (j : Input) (s : State) :
    (pinSample1 j s).2.env.answerNo = s.env.answerNo + 1 := rfl
@[simp] theorem pinSample1_state_turns (j : Input) (s : State) : (pinSample1 j s).2.env.turns = s.env.turns := rfl
@[simp] theorem pinSample1_state_turnNo (j : Input) (s : State) : (pinSample1 j s).2.env.turnNo = s.env.turnNo := rfl

/-! ### setDir -/

@[simp] theorem setDir_cfg (e : Bool) (s : State) : (setDir e s).cfg = s.cfg := rfl
@[simp] theorem setDir_engine (e : Bool) (s : State) : (setDir e s).engine = s.engine := rfl
@[simp] theorem setDir_oe (e : Bool) (s : State) : (setDir e s).pins.oe = s.pins.oe := rfl
@[simp] theorem setDir_outLatch (e : Bool) (s : State) : (setDir e s).pins.outLatch = s.pins.outLatch := rfl
@[simp] theorem setDir_dir (e : Bool) (s : State) : (setDir e s).pins.dir = e := rfl
@[simp] theorem setDir_auxLevel (e : Bool) (s : State) : (setDir e s).pins.auxLevel = s.pins.auxLevel := rfl
@[simp] theorem setDir_initDone (e : Bool) (s : State) : (setDir e s).pins.initDone = s.pins.initDone := rfl
@[simp] theorem setDir_transport (e : Bool) (s : State) : (setDir e s).transport = s.transport := rfl
@[simp] theorem setDir_trace (e : Bool) (s : State) : (setDir e s).logs.trace = s.logs.trace ++ [.dir e] := rfl
@[simp] theorem setDir_txlog (e : Bool) (s : State) : (setDir e s).logs.txlog = s.logs.txlog := rfl
@[simp] theorem setDir_consumed (e : Bool) (s : State) : (setDir e s).logs.consumed = s.logs.consumed := rfl
@[simp] theorem setDir_env (e : Bool) (s : State) : (setDir e s).env = s.env := rfl

/-! ### auxWrite -/

@[simp] theorem auxWrite_cfg (l : Bool) (s : State) : (auxWrite l s).cfg = s.cfg := rfl
@[simp] theorem auxWrite_engine (l : Bool) (s : State) : (auxWrite l s).engine = s.engine := rfl
@[simp] theorem auxWrite_oe (l : Bool) (s : State) : (auxWrite l s).pins.oe = s.pins.oe := rfl
@[simp] theorem auxWrite_outLatch (l : Bool) (s : State) : (auxWrite l s).pins.outLatch = s.pins.outLatch := rfl
@[simp] theorem auxWrite_dir (l : Bool) (s : State) : (auxWrite l s).pins.dir = s.pins.dir := rfl
@[simp] theorem auxWrite_auxLevel (l : Bool) (s : State) : (auxWrite l s).pins.auxLevel = l := rfl
@[simp] theorem auxWrite_initDone (l : Bool) (s : State) : (auxWrite l s).pins.initDone = s.pins.initDone := rfl
@[simp] theorem auxWrite_transport (l : Bool) (s : State) : (auxWrite l s).transport = s.transport := rfl
@[simp] theorem auxWrite_trace (l : Bool) (s : State) : (auxWrite l s).logs.trace = s.logs.trace ++ [.aux l] := rfl
@[simp] theorem auxWrite_txlog (l : Bool) (s : State) : (auxWrite l s).logs.txlog = s.logs.txlog := rfl
@[simp] theorem auxWrite_consumed (l : Bool) (s : State) : (auxWrite l s).logs.consumed = s.logs.consumed := rfl
@[simp] theorem auxWrite_env (l : Bool) (s : State) : (auxWrite l s).env = s.env := rfl

/-! ### indicator -/

@[simp] theorem indicator_cfg (e : Bool) (s : State) : (indicator e s).cfg = s.cfg := rfl
@[simp] theorem indicator_engine (e : Bool) (s : State) : (indicator e s).engine = s.engine := rfl
@[simp] theorem indicator_pins (e : Bool) (s : State) : (indicator e s).pins = s.pins := rfl
@[simp] theorem indicator_transport (e : Bool) (s : State) : (indicator e s).transport = s.transport := rfl
@[simp] theorem indicator_trace (e : Bool) (s : State) : (indicator e s).logs.trace = s.logs.trace ++ [.ind e] := rfl
@[simp] theorem indicator_txlog (e : Bool) (s : State) : (indicator e s).logs.txlog = s.logs.txlog := rfl
@[simp] theorem indicator_consumed (e : Bool) (s : State) : (indicator e s).logs.consumed = s.logs.consumed := rfl
@[simp] theorem indicator_env (e : Bool) (s : State) : (indicator e s).env = s.env := rfl

/-! ### delay -/

@[simp] theorem delay_cfg (k : DelayKind) (s : State) : (delay k s).cfg = s.cfg := rfl
@[simp] theorem delay_engine (k : DelayKind) (s : State) : (delay k s).engine = s.engine := rfl
@[simp] theorem delay_pins (k : DelayKind) (s : State) : (delay k s).pins = s.pins := rfl
@[simp] theorem delay_transport (k : DelayKind) (s : State) : (delay k s).transport = s.transport := rfl
@[simp] theorem delay_trace (k : DelayKind) (s : State) : (delay k s).logs.trace = s.logs.trace ++ [.dly k] := rfl
@[simp] theorem delay_txlog (k : DelayKind) (s : State) : (delay k s).logs.txlog = s.logs.txlog := rfl
@[simp] theorem delay_consumed (k : DelayKind) (s : State) : (delay k s).logs.consumed = s.logs.consumed := rfl
@[simp] theorem delay_env (k : DelayKind) (s : State) : (delay k s).env = s.env := rfl

/-! ### writeOe -/

@[simp] theorem writeOe_cfg (e : Bool) (s : State) : (writeOe e s).cfg = s.cfg := rfl
@[simp] theorem writeOe_engine (e : Bool) (s : State) : (writeOe e s).engine = s.engine := rfl
@[simp] theorem writeOe_oe (e : Bool) (s : State) : (writeOe e s).pins.oe = e := rfl
@[simp] theorem writeOe_outLatch (e : Bool) (s : State) : (writeOe e s).pins.outLatch = s.pins.outLatch := rfl
@[simp] theorem writeOe_dir (e : Bool) (s : State) : (writeOe e s).pins.dir = s.pins.dir := rfl
@[simp] theorem writeOe_auxLevel (e : Bool) (s : State) : (writeOe e s).pins.auxLevel = s.pins.auxLevel := rfl
@[simp] theorem writeOe_initDone (e : Bool) (s : State) : (writeOe e s).pins.initDone = s.pins.initDone := rfl
@[simp] theorem writeOe_transport (e : Bool) (s : State) : (writeOe e s).transport = s.transport := rfl
@[simp] theorem writeOe_logs (e : Bool) (s : State) : (writeOe e s).logs = s.logs := rfl
@[simp] theorem writeOe_env (e : Bool) (s : State) : (writeOe e s).env = s.env := rfl

/-! ### emit -/

@[simp] theorem emit_cfg (v : Byte) (s : State) : (emit v s).cfg = s.cfg := rfl
@[simp] theorem emit_engine (v : Byte) (s : State) : (emit v s).engine = s.engine := rfl
@[simp] theorem emit_pins (v : Byte) (s : State) : (emit v s).pins = s.pins := rfl
@[simp] theorem emit_phase (v : Byte) (s : State) : (emit v s).transport.phase = s.transport.phase := rfl
@[simp] theorem emit_chunk (v : Byte) (s : State) : (emit v s).transport.chunk = s.transport.chunk := rfl
@[simp] theorem emit_out (v : Byte) (s : State) : (emit v s).transport.out = s.transport.out ++ [v] := rfl
@[simp] theorem emit_acc (v : Byte) (s : State) : (emit v s).transport.acc = s.transport.acc := rfl
@[simp] theorem emit_accLen (v : Byte) (s : State) : (emit v s).transport.accLen = s.transport.accLen := rfl
@[simp] theorem emit_lastFlush (v : Byte) (s : State) : (emit v s).transport.lastFlush = s.transport.lastFlush := rfl
@[simp] theorem emit_logs (v : Byte) (s : State) : (emit v s).logs = s.logs := rfl
@[simp] theorem emit_env (v : Byte) (s : State) : (emit v s).env = s.env := rfl

/-! ### setEngine -/

@[simp] theorem setEngine_cfg (e : Engine) (s : State) : (setEngine e s).cfg = s.cfg := rfl
@[simp] theorem setEngine_engine (e : Engine) (s : State) : (setEngine e s).engine = e := rfl
@[simp] theorem setEngine_pins (e : Engine) (s : State) : (setEngine e s).pins = s.pins := rfl
@[simp] theorem setEngine_transport (e : Engine) (s : State) : (setEngine e s).transport = s.transport := rfl
@[simp] theorem setEngine_logs (e : Engine) (s : State) : (setEngine e s).logs = s.logs := rfl
@[simp] theorem setEngine_env (e : Engine) (s : State) : (setEngine e s).env = s.env := rfl

/-! ### countByte -/

@[simp] theorem countByte_cfg (s : State) : (countByte s).cfg = s.cfg := rfl
@[simp] theorem countByte_engine (s : State) : (countByte s).engine = s.engine := rfl
@[simp] theorem countByte_pins (s : State) : (countByte s).pins = s.pins := rfl
@[simp] theorem countByte_transport (s : State) : (countByte s).transport = s.transport := rfl
@[simp] theorem countByte_trace (s : State) : (countByte s).logs.trace = s.logs.trace := rfl
@[simp] theorem countByte_txlog (s : State) : (countByte s).logs.txlog = s.logs.txlog := rfl
@[simp] theorem countByte_consumed (s : State) : (countByte s).logs.consumed = s.logs.consumed + 1 := rfl
@[simp] theorem countByte_env (s : State) : (countByte s).env = s.env := rfl

/-! ### setChunk -/

@[simp] theorem setChunk_cfg (bs : List Byte) (s : State) : (setChunk bs s).cfg = s.cfg := rfl
@[simp] theorem setChunk_engine (bs : List Byte) (s : State) : (setChunk bs s).engine = s.engine := rfl
@[simp] theorem setChunk_pins (bs : List Byte) (s : State) : (setChunk bs s).pins = s.pins := rfl
@[simp] theorem setChunk_phase (bs : List Byte) (s : State) :
    (setChunk bs s).transport.phase = s.transport.phase := rfl
@[simp] theorem setChunk_chunk (bs : List Byte) (s : State) : (setChunk bs s).transport.chunk = bs := rfl
@[simp] theorem setChunk_out (bs : List Byte) (s : State) : (setChunk bs s).transport.out = s.transport.out := rfl
@[simp] theorem setChunk_acc (bs : List Byte) (s : State) : (setChunk bs s).transport.acc = s.transport.acc := rfl
@[simp] theorem setChunk_accLen (bs : List Byte) (s : State) :
    (setChunk bs s).transport.accLen = s.transport.accLen := rfl
@[simp] theorem setChunk_lastFlush (bs : List Byte) (s : State) :
    (setChunk bs s).transport.lastFlush = s.transport.lastFlush := rfl
@[simp] theorem setChunk_logs (bs : List Byte) (s : State) : (setChunk bs s).logs = s.logs := rfl
@[simp] theorem setChunk_env (bs : List Byte) (s : State) : (setChunk bs s).env = s.env := rfl

/-! ### setPhase -/

@[simp] theorem setPhase_cfg (p : Phase) (s : State) : (setPhase p s).cfg = s.cfg := rfl
@[simp] theorem setPhase_engine (p : Phase) (s : State) : (setPhase p s).engine = s.engine := rfl
@[simp] theorem setPhase_pins (p : Phase) (s : State) : (setPhase p s).pins = s.pins := rfl
@[simp] theorem setPhase_phase (p : Phase) (s : State) : (setPhase p s).transport.phase = p := rfl
@[simp] theorem setPhase_chunk (p : Phase) (s : State) : (setPhase p s).transport.chunk = s.transport.chunk := rfl
@[simp] theorem setPhase_out (p : Phase) (s : State) : (setPhase p s).transport.out = s.transport.out := rfl
@[simp] theorem setPhase_acc (p : Phase) (s : State) : (setPhase p s).transport.acc = s.transport.acc := rfl
@[simp] theorem setPhase_accLen (p : Phase) (s : State) : (setPhase p s).transport.accLen = s.transport.accLen := rfl
@[simp] theorem setPhase_lastFlush (p : Phase) (s : State) :
    (setPhase p s).transport.lastFlush = s.transport.lastFlush := rfl
@[simp] theorem setPhase_logs (p : Phase) (s : State) : (setPhase p s).logs = s.logs := rfl
@[simp] theorem setPhase_env (p : Phase) (s : State) : (setPhase p s).env = s.env := rfl

/-! ### dropOutput -/

@[simp] theorem dropOutput_cfg (s : State) : (dropOutput s).cfg = s.cfg := rfl
@[simp] theorem dropOutput_engine (s : State) : (dropOutput s).engine = s.engine := rfl
@[simp] theorem dropOutput_pins (s : State) : (dropOutput s).pins = s.pins := rfl
@[simp] theorem dropOutput_phase (s : State) : (dropOutput s).transport.phase = s.transport.phase := rfl
@[simp] theorem dropOutput_chunk (s : State) : (dropOutput s).transport.chunk = s.transport.chunk := rfl
@[simp] theorem dropOutput_out (s : State) : (dropOutput s).transport.out = s.transport.out := rfl
@[simp] theorem dropOutput_acc (s : State) : (dropOutput s).transport.acc = [] := rfl
@[simp] theorem dropOutput_accLen (s : State) : (dropOutput s).transport.accLen = 0 := rfl
@[simp] theorem dropOutput_lastFlush (s : State) : (dropOutput s).transport.lastFlush = s.transport.lastFlush := rfl
@[simp] theorem dropOutput_logs (s : State) : (dropOutput s).logs = s.logs := rfl
@[simp] theorem dropOutput_env (s : State) : (dropOutput s).env = s.env := rfl

/-! ### readChunk -/

@[simp] theorem readChunk_cfg (k : Nat) (s : State) : (readChunk k s).cfg = s.cfg := rfl
@[simp] theorem readChunk_engine (k : Nat) (s : State) : (readChunk k s).engine = s.engine := rfl
@[simp] theorem readChunk_pins (k : Nat) (s : State) : (readChunk k s).pins = s.pins := rfl
@[simp] theorem readChunk_phase (k : Nat) (s : State) : (readChunk k s).transport.phase = .processing := rfl
@[simp] theorem readChunk_chunk (k : Nat) (s : State) : (readChunk k s).transport.chunk = s.env.rxq.take k := rfl
@[simp] theorem readChunk_out (k : Nat) (s : State) : (readChunk k s).transport.out = [] := rfl
@[simp] theorem readChunk_acc (k : Nat) (s : State) : (readChunk k s).transport.acc = s.transport.acc := rfl
@[simp] theorem readChunk_accLen (k : Nat) (s : State) : (readChunk k s).transport.accLen = s.transport.accLen := rfl
@[simp] theorem readChunk_lastFlush (k : Nat) (s : State) :
    (readChunk k s).transport.lastFlush = s.transport.lastFlush := rfl
@[simp] theorem readChunk_logs (k : Nat) (s : State) : (readChunk k s).logs = s.logs := rfl
@[simp] theorem readChunk_rxq (k : Nat) (s : State) : (readChunk k s).env.rxq = s.env.rxq.drop k := rfl
@[simp] theorem readChunk_linkActive (k : Nat) (s : State) : (readChunk k s).env.linkActive = s.env.linkActive := rfl
@[simp] theorem readChunk_txReady (k : Nat) (s : State) : (readChunk k s).env.txReady = s.env.txReady := rfl
@[simp] theorem readChunk_rxTake (k : Nat) (s : State) : (readChunk k s).env.rxTake = s.env.rxTake := rfl
@[simp] theorem readChunk_now (k : Nat) (s : State) : (readChunk k s).env.now = s.env.now := rfl
@[simp] theorem readChunk_answers (k : Nat) (s : State) : (readChunk k s).env.answers = s.env.answers := rfl
@[simp] theorem readChunk_answerNo (k : Nat) (s : State) : (readChunk k s).env.answerNo = s.env.answerNo := rfl
@[simp] theorem readChunk_turns (k : Nat) (s : State) : (readChunk k s).env.turns = s.env.turns := rfl
@[simp] theorem readChunk_turnNo (k : Nat) (s : State) : (readChunk k s).env.turnNo = s.env.turnNo := rfl

/-! ### clearOut -/

@[simp] theorem clearOut_cfg (s : State) : (clearOut s).cfg = s.cfg := rfl
@[simp] theorem clearOut_engine (s : State) : (clearOut s).engine = s.engine := rfl
@[simp] theorem clearOut_pins (s : State) : (clearOut s).pins = s.pins := rfl
@[simp] theorem clearOut_phase (s : State) : (clearOut s).transport.phase = s.transport.phase := rfl
@[simp] theorem clearOut_chunk (s : State) : (clearOut s).transport.chunk = s.transport.chunk := rfl
@[simp] theorem clearOut_out (s : State) : (clearOut s).transport.out = [] := rfl
@[simp] theorem clearOut_acc (s : State) : (clearOut s).transport.acc = s.transport.acc := rfl
@[simp] theorem clearOut_accLen (s : State) : (clearOut s).transport.accLen = s.transport.accLen := rfl
@[simp] theorem clearOut_lastFlush (s : State) : (clearOut s).transport.lastFlush = s.transport.lastFlush := rfl
@[simp] theorem clearOut_logs (s : State) : (clearOut s).logs = s.logs := rfl
@[simp] theorem clearOut_env (s : State) : (clearOut s).env = s.env := rfl

/-! ### txSend -/

@[simp] theorem txSend_cfg (f : List Byte) (s : State) : (txSend f s).cfg = s.cfg := rfl
@[simp] theorem txSend_engine (f : List Byte) (s : State) : (txSend f s).engine = s.engine := rfl
@[simp] theorem txSend_pins (f : List Byte) (s : State) : (txSend f s).pins = s.pins := rfl
@[simp] theorem txSend_transport (f : List Byte) (s : State) : (txSend f s).transport = s.transport := rfl
@[simp] theorem txSend_trace (f : List Byte) (s : State) : (txSend f s).logs.trace = s.logs.trace := rfl
@[simp] theorem txSend_txlog (f : List Byte) (s : State) : (txSend f s).logs.txlog = s.logs.txlog ++ [f] := rfl
@[simp] theorem txSend_consumed (f : List Byte) (s : State) : (txSend f s).logs.consumed = s.logs.consumed := rfl
@[simp] theorem txSend_env (f : List Byte) (s : State) : (txSend f s).env = s.env := rfl

/-! ### recordFlush -/

@[simp] theorem recordFlush_cfg (t : Nat) (s : State) : (recordFlush t s).cfg = s.cfg := rfl
@[simp] theorem recordFlush_engine (t : Nat) (s : State) : (recordFlush t s).engine = s.engine := rfl
@[simp] theorem recordFlush_pins (t : Nat) (s : State) : (recordFlush t s).pins = s.pins := rfl
@[simp] theorem recordFlush_phase (t : Nat) (s : State) : (recordFlush t s).transport.phase = s.transport.phase := rfl
@[simp] theorem recordFlush_chunk (t : Nat) (s : State) : (recordFlush t s).transport.chunk = s.transport.chunk := rfl
@[simp] theorem recordFlush_out (t : Nat) (s : State) : (recordFlush t s).transport.out = s.transport.out := rfl
@[simp] theorem recordFlush_acc (t : Nat) (s : State) : (recordFlush t s).transport.acc = s.transport.acc := rfl
@[simp] theorem recordFlush_accLen (t : Nat) (s : State) :
    (recordFlush t s).transport.accLen = s.transport.accLen := rfl
@[simp] theorem recordFlush_lastFlush (t : Nat) (s : State) : (recordFlush t s).transport.lastFlush = t := rfl
@[simp] theorem recordFlush_logs (t : Nat) (s : State) : (recordFlush t s).logs = s.logs := rfl
@[simp] theorem recordFlush_env (t : Nat) (s : State) : (recordFlush t s).env = s.env := rfl

/-! ### compact -/

@[simp] theorem compact_cfg (n : Nat) (s : State) : (compact n s).cfg = s.cfg := rfl
@[simp] theorem compact_engine (n : Nat) (s : State) : (compact n s).engine = s.engine := rfl
@[simp] theorem compact_pins (n : Nat) (s : State) : (compact n s).pins = s.pins := rfl
@[simp] theorem compact_phase (n : Nat) (s : State) : (compact n s).transport.phase = s.transport.phase := rfl
@[simp] theorem compact_chunk (n : Nat) (s : State) : (compact n s).transport.chunk = s.transport.chunk := rfl
@[simp] theorem compact_out (n : Nat) (s : State) : (compact n s).transport.out = s.transport.out := rfl
@[simp] theorem compact_acc (n : Nat) (s : State) : (compact n s).transport.acc = s.transport.acc.dropFront n := rfl
@[simp] theorem compact_accLen (n : Nat) (s : State) : (compact n s).transport.accLen = s.transport.accLen - n := rfl
@[simp] theorem compact_lastFlush (n : Nat) (s : State) :
    (compact n s).transport.lastFlush = s.transport.lastFlush := rfl
@[simp] theorem compact_logs (n : Nat) (s : State) : (compact n s).logs = s.logs := rfl
@[simp] theorem compact_env (n : Nat) (s : State) : (compact n s).env = s.env := rfl

/-! ### setLink -/

@[simp] theorem setLink_cfg (up : Bool) (s : State) : (setLink up s).cfg = s.cfg := rfl
@[simp] theorem setLink_engine (up : Bool) (s : State) : (setLink up s).engine = s.engine := rfl
@[simp] theorem setLink_pins (up : Bool) (s : State) : (setLink up s).pins = s.pins := rfl
@[simp] theorem setLink_transport (up : Bool) (s : State) : (setLink up s).transport = s.transport := rfl
@[simp] theorem setLink_logs (up : Bool) (s : State) : (setLink up s).logs = s.logs := rfl
@[simp] theorem setLink_rxq (up : Bool) (s : State) : (setLink up s).env.rxq = s.env.rxq := rfl
@[simp] theorem setLink_linkActive (up : Bool) (s : State) : (setLink up s).env.linkActive = up := rfl
@[simp] theorem setLink_txReady (up : Bool) (s : State) : (setLink up s).env.txReady = s.env.txReady := rfl
@[simp] theorem setLink_rxTake (up : Bool) (s : State) : (setLink up s).env.rxTake = s.env.rxTake := rfl
@[simp] theorem setLink_now (up : Bool) (s : State) : (setLink up s).env.now = s.env.now := rfl
@[simp] theorem setLink_answers (up : Bool) (s : State) : (setLink up s).env.answers = s.env.answers := rfl
@[simp] theorem setLink_answerNo (up : Bool) (s : State) : (setLink up s).env.answerNo = s.env.answerNo := rfl
@[simp] theorem setLink_turns (up : Bool) (s : State) : (setLink up s).env.turns = s.env.turns := rfl
@[simp] theorem setLink_turnNo (up : Bool) (s : State) : (setLink up s).env.turnNo = s.env.turnNo := rfl

/-! ### setReady -/

@[simp] theorem setReady_cfg (r : Bool) (s : State) : (setReady r s).cfg = s.cfg := rfl
@[simp] theorem setReady_engine (r : Bool) (s : State) : (setReady r s).engine = s.engine := rfl
@[simp] theorem setReady_pins (r : Bool) (s : State) : (setReady r s).pins = s.pins := rfl
@[simp] theorem setReady_transport (r : Bool) (s : State) : (setReady r s).transport = s.transport := rfl
@[simp] theorem setReady_logs (r : Bool) (s : State) : (setReady r s).logs = s.logs := rfl
@[simp] theorem setReady_rxq (r : Bool) (s : State) : (setReady r s).env.rxq = s.env.rxq := rfl
@[simp] theorem setReady_linkActive (r : Bool) (s : State) : (setReady r s).env.linkActive = s.env.linkActive := rfl
@[simp] theorem setReady_txReady (r : Bool) (s : State) : (setReady r s).env.txReady = r := rfl
@[simp] theorem setReady_rxTake (r : Bool) (s : State) : (setReady r s).env.rxTake = s.env.rxTake := rfl
@[simp] theorem setReady_now (r : Bool) (s : State) : (setReady r s).env.now = s.env.now := rfl
@[simp] theorem setReady_answers (r : Bool) (s : State) : (setReady r s).env.answers = s.env.answers := rfl
@[simp] theorem setReady_answerNo (r : Bool) (s : State) : (setReady r s).env.answerNo = s.env.answerNo := rfl
@[simp] theorem setReady_turns (r : Bool) (s : State) : (setReady r s).env.turns = s.env.turns := rfl
@[simp] theorem setReady_turnNo (r : Bool) (s : State) : (setReady r s).env.turnNo = s.env.turnNo := rfl

/-! ### setReceive -/

@[simp] theorem setReceive_cfg (k : Nat) (s : State) : (setReceive k s).cfg = s.cfg := rfl
@[simp] theorem setReceive_engine (k : Nat) (s : State) : (setReceive k s).engine = s.engine := rfl
@[simp] theorem setReceive_pins (k : Nat) (s : State) : (setReceive k s).pins = s.pins := rfl
@[simp] theorem setReceive_transport (k : Nat) (s : State) : (setReceive k s).transport = s.transport := rfl
@[simp] theorem setReceive_logs (k : Nat) (s : State) : (setReceive k s).logs = s.logs := rfl
@[simp] theorem setReceive_rxq (k : Nat) (s : State) : (setReceive k s).env.rxq = s.env.rxq := rfl
@[simp] theorem setReceive_linkActive (k : Nat) (s : State) :
    (setReceive k s).env.linkActive = s.env.linkActive := rfl
@[simp] theorem setReceive_txReady (k : Nat) (s : State) : (setReceive k s).env.txReady = s.env.txReady := rfl
@[simp] theorem setReceive_rxTake (k : Nat) (s : State) : (setReceive k s).env.rxTake = k := rfl
@[simp] theorem setReceive_now (k : Nat) (s : State) : (setReceive k s).env.now = s.env.now := rfl
@[simp] theorem setReceive_answers (k : Nat) (s : State) : (setReceive k s).env.answers = s.env.answers := rfl
@[simp] theorem setReceive_answerNo (k : Nat) (s : State) : (setReceive k s).env.answerNo = s.env.answerNo := rfl
@[simp] theorem setReceive_turns (k : Nat) (s : State) : (setReceive k s).env.turns = s.env.turns := rfl
@[simp] theorem setReceive_turnNo (k : Nat) (s : State) : (setReceive k s).env.turnNo = s.env.turnNo := rfl

/-! ### elapse -/

@[simp] theorem elapse_cfg (ms : Nat) (s : State) : (elapse ms s).cfg = s.cfg := rfl
@[simp] theorem elapse_engine (ms : Nat) (s : State) : (elapse ms s).engine = s.engine := rfl
@[simp] theorem elapse_pins (ms : Nat) (s : State) : (elapse ms s).pins = s.pins := rfl
@[simp] theorem elapse_transport (ms : Nat) (s : State) : (elapse ms s).transport = s.transport := rfl
@[simp] theorem elapse_logs (ms : Nat) (s : State) : (elapse ms s).logs = s.logs := rfl
@[simp] theorem elapse_rxq (ms : Nat) (s : State) : (elapse ms s).env.rxq = s.env.rxq := rfl
@[simp] theorem elapse_linkActive (ms : Nat) (s : State) : (elapse ms s).env.linkActive = s.env.linkActive := rfl
@[simp] theorem elapse_txReady (ms : Nat) (s : State) : (elapse ms s).env.txReady = s.env.txReady := rfl
@[simp] theorem elapse_rxTake (ms : Nat) (s : State) : (elapse ms s).env.rxTake = s.env.rxTake := rfl
@[simp] theorem elapse_now (ms : Nat) (s : State) : (elapse ms s).env.now = s.env.now + ms := rfl
@[simp] theorem elapse_answers (ms : Nat) (s : State) : (elapse ms s).env.answers = s.env.answers := rfl
@[simp] theorem elapse_answerNo (ms : Nat) (s : State) : (elapse ms s).env.answerNo = s.env.answerNo := rfl
@[simp] theorem elapse_turns (ms : Nat) (s : State) : (elapse ms s).env.turns = s.env.turns := rfl
@[simp] theorem elapse_turnNo (ms : Nat) (s : State) : (elapse ms s).env.turnNo = s.env.turnNo := rfl

/-! ### takeTurn -/

@[simp] theorem takeTurn_cfg (s : State) : (takeTurn s).cfg = s.cfg := rfl
@[simp] theorem takeTurn_engine (s : State) : (takeTurn s).engine = s.engine := rfl
@[simp] theorem takeTurn_pins (s : State) : (takeTurn s).pins = s.pins := rfl
@[simp] theorem takeTurn_transport (s : State) : (takeTurn s).transport = s.transport := rfl
@[simp] theorem takeTurn_logs (s : State) : (takeTurn s).logs = s.logs := rfl
@[simp] theorem takeTurn_rxq (s : State) : (takeTurn s).env.rxq = s.env.rxq := rfl
@[simp] theorem takeTurn_linkActive (s : State) : (takeTurn s).env.linkActive = s.env.linkActive := rfl
@[simp] theorem takeTurn_txReady (s : State) : (takeTurn s).env.txReady = s.env.txReady := rfl
@[simp] theorem takeTurn_rxTake (s : State) : (takeTurn s).env.rxTake = s.env.rxTake := rfl
@[simp] theorem takeTurn_now (s : State) : (takeTurn s).env.now = s.env.now := rfl
@[simp] theorem takeTurn_answers (s : State) : (takeTurn s).env.answers = s.env.answers := rfl
@[simp] theorem takeTurn_answerNo (s : State) : (takeTurn s).env.answerNo = s.env.answerNo := rfl
@[simp] theorem takeTurn_turns (s : State) : (takeTurn s).env.turns = s.env.turns.tail := rfl
@[simp] theorem takeTurn_turnNo (s : State) : (takeTurn s).env.turnNo = s.env.turnNo + 1 := rfl

end Sys2Proof.Machine
end

