-- ==== Sys2Proof/Laws/Signal.lean ====
section
/-! SUPPORT. What the shared Signal Layer operations can do, once each: setOutputEnable (spec/40_signal_layer.md
R74), bitbangExchange (R75), shiftExchange (R76) and reset (spec/70_reset_and_hazards.md R120). -/

namespace Sys2Proof.Machine

/-! ### setOutputEnable -/

@[simp] theorem setOutputEnable_same (s : State) : setOutputEnable s.pins.oe s = s := by
  simp [setOutputEnable]

section
variable (e : Bool) (s : State)

@[simp] theorem setOutputEnable_cfg : (setOutputEnable e s).cfg = s.cfg := by
  unfold setOutputEnable gateOutputs; split <;> [rfl; split <;> rfl]

@[simp] theorem setOutputEnable_engine : (setOutputEnable e s).engine = s.engine := by
  unfold setOutputEnable gateOutputs; split <;> [rfl; split <;> rfl]

@[simp] theorem setOutputEnable_transport : (setOutputEnable e s).transport = s.transport := by
  unfold setOutputEnable gateOutputs; split <;> [rfl; split <;> rfl]

@[simp] theorem setOutputEnable_env : (setOutputEnable e s).env = s.env := by
  unfold setOutputEnable gateOutputs; split <;> [rfl; split <;> rfl]

@[simp] theorem setOutputEnable_txlog : (setOutputEnable e s).logs.txlog = s.logs.txlog := by
  unfold setOutputEnable gateOutputs; split <;> [rfl; split <;> rfl]

@[simp] theorem setOutputEnable_consumed : (setOutputEnable e s).logs.consumed = s.logs.consumed := by
  unfold setOutputEnable gateOutputs; split <;> [rfl; split <;> rfl]

@[simp] theorem setOutputEnable_outLatch : (setOutputEnable e s).pins.outLatch = s.pins.outLatch := by
  unfold setOutputEnable gateOutputs; split <;> [rfl; split <;> rfl]

@[simp] theorem setOutputEnable_initDone : (setOutputEnable e s).pins.initDone = s.pins.initDone := by
  unfold setOutputEnable gateOutputs; split <;> [rfl; split <;> rfl]

@[simp] theorem setOutputEnable_oe : (setOutputEnable e s).pins.oe = e := by
  unfold setOutputEnable gateOutputs; split <;> [simp_all; split <;> rfl]

@[simp] theorem setOutputEnable_dir : (setOutputEnable e s).pins.dir = dirAfter s.cfg s.pins e := by
  unfold setOutputEnable dirAfter
  split
  · rfl
  · cases h : s.cfg.oeMode <;> simp [gateOutputs, h]

@[simp] theorem setOutputEnable_auxLevel : (setOutputEnable e s).pins.auxLevel = auxAfter s.cfg s.pins e := by
  unfold setOutputEnable auxAfter
  split
  · rfl
  · cases h : s.cfg.oeMode <;> simp [gateOutputs, auxLevelFor, h]

@[simp] theorem setOutputEnable_trace :
    (setOutputEnable e s).logs.trace = s.logs.trace ++ oeEvents s.cfg s.pins.oe e := by
  unfold setOutputEnable oeEvents
  split
  · simp
  · cases h : s.cfg.oeMode <;> simp [gateOutputs, auxLevelFor, h]

end

/-! ### Answers -/

/-- The environment after the target has answered `k` samples. -/
def afterSamples (v : Env) (k : Nat) : Env :=
  { v with answers := v.answers.drop k, answerNo := v.answerNo + k }

@[simp] theorem afterSamples_zero (v : Env) : afterSamples v 0 = v := by simp [afterSamples]

theorem afterSamples_succ (v : Env) (k : Nat) : afterSamples (afterSamples v 1) k = afterSamples v (k + 1) := by
  simp [afterSamples, Nat.add_comm k 1, Nat.add_assoc]

theorem takeAnswer_env (s : State) : (takeAnswer s).env = afterSamples s.env 1 := by
  simp [takeAnswer, afterSamples]

theorem nextAnswer_eq (v : Env) : nextAnswer v = answerAt v 0 := by
  cases h : v.answers <;> simp [nextAnswer, answerAt, h]

theorem answerAt_afterSamples (v : Env) (j k : Nat) : answerAt (afterSamples v j) k = answerAt v (j + k) := by
  simp only [answerAt, afterSamples, List.getElem?_drop, Nat.add_assoc]

/-! ### bitbangExchange -/

theorem bitbangExchange_sample (p : Levels) (s : State) : (bitbangExchange p s).1 = nextAnswer s.env := rfl

theorem bitbangExchange_state (p : Levels) (s : State) :
    (bitbangExchange p s).2 =
      { s with
        pins := { s.pins with outLatch := p }
        logs := { s.logs with
          trace := s.logs.trace ++ [.s2 (nextAnswer s.env), .dly .bbSetup, .w 0b11111#5 p] }
        env := afterSamples s.env 1 } := by
  have h : ∀ l p : Levels, (l &&& ~~~maskAll) ||| p = p := by decide
  have h' : ∀ p : Levels, p &&& maskAll = p := by decide
  simp only [bitbangExchange, pinSample2, pinWrite, delay, logEvent, takeAnswer, h', h, List.append_assoc,
    List.cons_append, List.nil_append, afterSamples, List.drop_one]
  rfl

/-! ### shiftExchange -/

theorem shiftBit_state (sel : Input) (d : Byte) (i : Nat) (r : Byte) (s : State) :
    shiftBit sel d i r s =
      (shiftIn r ((answerAt s.env 0).getLsbD sel.index),
       { s with
          pins := { s.pins with outLatch := (s.pins.outLatch &&& 0b01110#5) ||| doutLevel d i }
          logs := { s.logs with
            trace := s.logs.trace ++ bitEvents sel (d.getLsbD i) ((answerAt s.env 0).getLsbD sel.index) }
          env := afterSamples s.env 1 }) := by
  have h1 : ∀ (l : Levels) (b : Bool),
      (((l &&& ~~~maskDout) ||| (if b then 0b10000#5 else 0b00000#5)) &&& ~~~maskClk ||| 0b00001#5) &&&
        ~~~maskClk ||| 0b00000#5 = (l &&& 0b01110#5) ||| (if b then 0b10000#5 else 0b00000#5) := by decide
  have h2 : ∀ b : Bool, (if b then 0b10000#5 else 0b00000#5) &&& maskDout = if b then 0b10000#5 else 0b00000#5 := by
    decide
  have h3 : 0b00001#5 &&& maskClk = 0b00001#5 := by decide
  have h4 : 0b00000#5 &&& maskClk = 0b00000#5 := by decide
  simp only [shiftBit, clockPulse, pinSample1, pinWrite, delay, logEvent, takeAnswer, doutLevel, bitEvents,
    ← nextAnswer_eq, List.append_assoc, List.cons_append, List.nil_append, afterSamples, List.drop_one, h2, h3, h4,
    h1]
  rfl

/-- The latch after iterations over a list of bits: the last one stays on data-out, the clock is low. -/
theorem latch_fold (l x y : Levels) : (((l &&& 0b01110#5) ||| (x &&& 0b10000#5)) &&& 0b01110#5) ||| y =
    (l &&& 0b01110#5) ||| y := by
  have : ∀ l x : Levels, (((l &&& 0b01110#5) ||| (x &&& 0b10000#5)) &&& 0b01110#5) = l &&& 0b01110#5 := by decide
  rw [this]

theorem doutLevel_mask (d : Byte) (i : Nat) : doutLevel d i = doutLevel d i &&& 0b10000#5 := by
  unfold doutLevel; split <;> decide

/-- shiftExchange's iterations, whichever bits they send: the result register, the latch, the trace and the
answers used; nothing else changes. -/
theorem shiftBits_state (sel : Input) (d : Byte) (is : List Nat) : ∀ (r : Byte) (s : State),
    shiftBits sel d is r s =
      ((List.range is.length).foldl (fun r k => shiftIn r ((answerAt s.env k).getLsbD sel.index)) r,
       { s with
          pins := { s.pins with outLatch :=
            match is.getLast? with
            | none => s.pins.outLatch
            | some i => (s.pins.outLatch &&& 0b01110#5) ||| doutLevel d i }
          logs := { s.logs with
            trace := s.logs.trace ++ (is.zipIdx).flatMap
              (fun ik => bitEvents sel (d.getLsbD ik.1) ((answerAt s.env ik.2).getLsbD sel.index)) }
          env := afterSamples s.env is.length }) := by
  induction is with
  | nil => intro r s; simp [shiftBits]
  | cons i is ih =>
    intro r s
    rw [shiftBits, shiftBit_state, ih]
    simp only [List.length_cons, List.range_succ_eq_map, List.foldl_cons, List.foldl_map,
      answerAt_afterSamples, Nat.add_comm 1, Nat.succ_eq_add_one, afterSamples_succ]
    refine Prod.ext rfl ?_
    simp only [List.zipIdx_cons', List.flatMap_cons, List.flatMap_map, List.append_assoc]
    cases is using List.reverseRecOn with
    | nil => simp
    | append_singleton is j _ =>
      simp only [List.getLast?_append, Option.some_or, List.getLast?_cons]
      rw [doutLevel_mask d i, latch_fold]
      simp

/-- The state after shiftExchange (R76). -/
def afterShiftExchange (d : Byte) (s : State) : State :=
  { s with
    pins := { s.pins with outLatch := (s.pins.outLatch &&& 0b01110#5) ||| doutLevel d 7 }
    logs := { s.logs with trace := s.logs.trace ++ shiftEvents d s }
    env := afterSamples s.env 8 }

theorem shiftExchange_state (d : Byte) (s : State) : (shiftExchange d s).2 = afterShiftExchange d s := by
  unfold shiftExchange
  rw [shiftBits_state]
  rfl

/-- The closed form of the result (R76): bit `k` is the sample of iteration `k`. -/
theorem shiftExchange_bit (d : Byte) (s : State) (k : Nat) (h : k < 8) :
    (shiftExchange d s).1.getLsbD k = shiftSample s k := by
  have fold : ∀ b0 b1 b2 b3 b4 b5 b6 b7 : Bool,
      shiftIn (shiftIn (shiftIn (shiftIn (shiftIn (shiftIn (shiftIn (shiftIn 0x00#8 b0) b1) b2) b3) b4) b5) b6) b7 =
        BitVec.ofBoolListLE [b0, b1, b2, b3, b4, b5, b6, b7] := by decide
  have hr : (shiftExchange d s).1 =
      BitVec.ofBoolListLE [shiftSample s 0, shiftSample s 1, shiftSample s 2, shiftSample s 3, shiftSample s 4,
        shiftSample s 5, shiftSample s 6, shiftSample s 7] := by
    unfold shiftExchange
    rw [shiftBits_state]
    exact fold ..
  have bits : ∀ b0 b1 b2 b3 b4 b5 b6 b7 : Bool, ∀ k : Fin 8,
      (BitVec.ofBoolListLE [b0, b1, b2, b3, b4, b5, b6, b7]).getLsbD k =
        [b0, b1, b2, b3, b4, b5, b6, b7][k] := by decide
  rw [hr]
  refine (bits _ _ _ _ _ _ _ _ ⟨k, h⟩).trans ?_
  interval_cases k <;> rfl

/-! ### reset -/

theorem engineReset_state (s : State) :
    engineReset s =
      { s with
        engine := .idle
        pins :=
          { s.pins with
            oe := false
            outLatch := 0b00000#5
            dir := dirAfter s.cfg s.pins false
            auxLevel := auxAfter s.cfg s.pins false }
        logs := { s.logs with
          trace := s.logs.trace ++ oeEvents s.cfg s.pins.oe false ++ [.w 0b11111#5 0b00000#5] } } := by
  have h : ∀ l : Levels, l &&& ~~~maskAll = 0b00000#5 := by decide
  rw [engineReset, pinWrite, logEvent]
  simp [h]
  rfl

end Sys2Proof.Machine
end

