-- ==== Sys2Proof/Laws/Engine.lean ====
section
/-! SUPPORT. What each instruction answers, as one record (spec/41_protocol_engine.md R84 to R86), and the chunk
functions' equations (R81). -/

namespace Sys2Proof.Machine

/-! ### Answers of a step -/

@[simp] theorem andThen_next (s : State) (f : State → Result) : andThen (.next s) f = f s := rfl
@[simp] theorem andThen_fault (e : Fault) (f : State → Result) : andThen (.fault e) f = .fault e := rfl
@[simp] theorem andThen_refused (e : Refusal) (f : State → Result) : andThen (.refused e) f = .refused e := rfl

theorem andThen_assoc (r : Result) (f g : State → Result) :
    andThen (andThen r f) g = andThen r (fun s => andThen (f s) g) := by cases r <;> rfl

/-- The inversion of andThen: both parts answered a next state. -/
theorem andThen_eq_next {r : Result} {f : State → Result} {t : State} :
    andThen r f = .next t ↔ ∃ s, r = .next s ∧ f s = .next t := by cases r <;> simp

/-! ### The three meanings -/

/-- The state after BITBANG. -/
def afterBitbang (r o : Bool) (p : Levels) (s : State) : State :=
  { s with
    pins :=
      { s.pins with
        oe := o
        outLatch := p
        dir := dirAfter s.cfg s.pins o
        auxLevel := auxAfter s.cfg s.pins o }
    transport := { s.transport with out := s.transport.out ++ if r then [zext8 (answerAt s.env 0)] else [] }
    logs := { s.logs with
      trace := s.logs.trace ++ oeEvents s.cfg s.pins.oe o ++
        [.s2 (answerAt s.env 0), .dly .bbSetup, .w 0b11111#5 p] }
    env := afterSamples s.env 1 }

theorem execBitbang_eq (r o : Bool) (p : Levels) (s : State) :
    execBitbang r o p s = .next (afterBitbang r o p s) := by
  simp only [execBitbang, bitbangExchange_sample, bitbangExchange_state, emitSample, afterBitbang,
    setOutputEnable_env, ← nextAnswer_eq]
  congr 1
  cases r <;> simp [emit]

/-- The state after SHIFT. -/
def afterShiftHeader (c : Bool) (n : BurstLen) (s : State) : State :=
  { s with
    engine := afterShift s.engine c n
    pins := { s.pins with outLatch := if n ≠ 0#6 ∨ s.cfg.zeroLenClkLow = true then s.pins.outLatch &&& 0b11110#5
      else s.pins.outLatch }
    logs := { s.logs with trace := s.logs.trace ++
      if n ≠ 0#6 ∨ s.cfg.zeroLenClkLow = true then [.w 0b00001#5 0b00000#5] else [] } }

theorem execShift_eq (c : Bool) (n : BurstLen) (s : State) :
    execShift c n s = .next (afterShiftHeader c n s) := by
  have h1 : ∀ l : Levels, (l &&& ~~~maskClk) ||| 0b00000#5 = l &&& 0b11110#5 := by decide
  have h2 : (0b00000#5 &&& maskClk : Levels) = 0b00000#5 := by decide
  simp only [execShift, forceClockLow, afterShiftHeader]
  by_cases h : n ≠ 0#6 ∨ s.cfg.zeroLenClkLow = true
  · simp only [if_pos h, pinWrite, logEvent, setEngine, h2, h1]; rfl
  · simp only [if_neg h, setEngine, List.append_nil]

/-- The state after DATA in a burst. -/
def afterDataByte (d : Byte) (remaining : BurstLen) (capture : Bool) (s : State) : State :=
  { s with
    engine := afterData remaining capture
    pins := { s.pins with outLatch := (s.pins.outLatch &&& 0b01110#5) ||| doutLevel d 7 }
    transport := { s.transport with
      out := s.transport.out ++ if capture then [(shiftExchange d s).1] else [] }
    logs := { s.logs with trace := s.logs.trace ++ shiftEvents d s }
    env := afterSamples s.env 8 }

theorem execData_eq {d : Byte} {s : State} {remaining : BurstLen} {capture : Bool}
    (h : s.engine = .shiftActive remaining capture) :
    execData d s = .next (afterDataByte d remaining capture s) := by
  simp only [execData, h, shiftExchange_state, emitCapture, afterDataByte]
  congr 1
  cases capture <;> simp [emit, setEngine, afterShiftExchange]

theorem execData_idle {d : Byte} {s : State} (h : s.engine = .idle) :
    execData d s = .refused .dataOutsideBurst := by
  simp only [execData, h]

/-- What an instruction can answer: one case per instruction, and the refusal of DATA in Idle. -/
theorem exec_cases (i : Instr) (s : State) :
    (∃ r o p, i = .bitbang r o p ∧ exec i s = .next (afterBitbang r o p s)) ∨
    (∃ c n, i = .shift c n ∧ exec i s = .next (afterShiftHeader c n s)) ∨
    (∃ d k c, i = .data d ∧ s.engine = .shiftActive k c ∧ exec i s = .next (afterDataByte d k c s)) ∨
    (∃ d, i = .data d ∧ s.engine = .idle ∧ exec i s = .refused .dataOutsideBurst) := by
  cases i with
  | bitbang r o p => exact .inl ⟨r, o, p, rfl, execBitbang_eq r o p s⟩
  | shift c n => exact .inr (.inl ⟨c, n, rfl, execShift_eq c n s⟩)
  | data d =>
    cases h : s.engine with
    | idle => exact .inr (.inr (.inr ⟨d, rfl, rfl, execData_idle h⟩))
    | shiftActive k c => exact .inr (.inr (.inl ⟨d, k, c, rfl, rfl, execData_eq h⟩))

/-! ### One byte and a call -/

/-- What a byte step can answer: BITBANG or SHIFT in Idle, DATA in a burst. It always answers a next state. -/
theorem engineByte_cases (b : Byte) (s : State) :
    (∃ r o p, s.engine = .idle ∧ decode .idle b = .bitbang r o p ∧
      engineByte b s = .next (countByte (afterBitbang r o p s))) ∨
    (∃ c n, s.engine = .idle ∧ decode .idle b = .shift c n ∧
      engineByte b s = .next (countByte (afterShiftHeader c n s))) ∨
    (∃ k c, s.engine = .shiftActive k c ∧ engineByte b s = .next (countByte (afterDataByte b k c s))) := by
  unfold engineByte
  cases h : s.engine with
  | idle =>
    rw [show Engine.mode .idle = Mode.idle from rfl]
    by_cases hb : b.getLsbD 7 = true
    · refine .inr (.inl ⟨_, _, rfl, by rw [decode, if_pos hb]; rfl, ?_⟩)
      rw [decode, if_pos hb, decodeShift, exec, execShift_eq]; rfl
    · refine .inl ⟨_, _, _, rfl, by rw [decode, if_neg hb]; rfl, ?_⟩
      rw [decode, if_neg hb, decodeBitbang, exec, execBitbang_eq]; rfl
  | shiftActive k c =>
    refine .inr (.inr ⟨k, c, rfl, ?_⟩)
    rw [Engine.mode, decode, decodeData, exec, execData_eq h]; rfl

theorem engineByte_completes (b : Byte) (s : State) : ∃ t, engineByte b s = .next t := by
  obtain ⟨_, _, _, _, _, h⟩ | ⟨_, _, _, _, h⟩ | ⟨_, _, _, h⟩ := engineByte_cases b s <;> exact ⟨_, h⟩

@[simp] theorem engineBytes_nil (s : State) : engineBytes [] s = .next s := rfl
theorem engineBytes_cons (b : Byte) (bs : List Byte) (s : State) :
    engineBytes (b :: bs) s = andThen (engineByte b s) (engineBytes bs) := rfl

theorem engineBytes_append (as bs : List Byte) : ∀ s : State,
    engineBytes (as ++ bs) s = andThen (engineBytes as s) (engineBytes bs) := by
  induction as with
  | nil => exact fun _ => rfl
  | cons a as ih =>
    intro s
    rw [List.cons_append, engineBytes_cons, engineBytes_cons, andThen_assoc]
    exact congrArg _ (funext ih)

/-- What a byte reads and what it writes, but for the output list: two states that agree here run alike (spec/20_memory.md
R52). -/
structure SameEngine (s₁ s₂ : State) : Prop where
  cfg : s₁.cfg = s₂.cfg
  engine : s₁.engine = s₂.engine
  pins : s₁.pins = s₂.pins
  trace : s₁.logs.trace = s₂.logs.trace
  consumed : s₁.logs.consumed = s₂.logs.consumed
  answers : s₁.env.answers = s₂.env.answers
  answerNo : s₁.env.answerNo = s₂.env.answerNo

/-- The engine has run from `s` to `t` and emitted `outs`: the configuration, the Transport Adapter, the frames and the environment are
as they were, but for the output list and the target's answers. -/
structure Emitted (s t : State) (outs : List Byte) : Prop where
  cfg : t.cfg = s.cfg
  transport : t.transport = { s.transport with out := s.transport.out ++ outs }
  txlog : t.logs.txlog = s.logs.txlog
  env : t.env = { s.env with answers := t.env.answers, answerNo := t.env.answerNo }

theorem SameEngine.answerAt {s₁ s₂ : State} (h : SameEngine s₁ s₂) (k : Nat) :
    Machine.answerAt s₁.env k = Machine.answerAt s₂.env k := by
  rw [Machine.answerAt, Machine.answerAt, h.answers, h.answerNo]

theorem SameEngine.shiftSample {s₁ s₂ : State} (h : SameEngine s₁ s₂) (k : Nat) :
    Machine.shiftSample s₁ k = Machine.shiftSample s₂ k := by
  rw [Machine.shiftSample, Machine.shiftSample, h.answerAt, selectedInput, selectedInput, h.cfg, h.pins]

theorem SameEngine.shiftResult {s₁ s₂ : State} (h : SameEngine s₁ s₂) (d : Byte) :
    (shiftExchange d s₁).1 = (shiftExchange d s₂).1 := by
  refine BitVec.eq_of_getLsbD_eq fun i hi => ?_
  rw [shiftExchange_bit _ _ _ hi, shiftExchange_bit _ _ _ hi, h.shiftSample]

theorem SameEngine.shiftEvents {s₁ s₂ : State} (h : SameEngine s₁ s₂) (d : Byte) :
    Machine.shiftEvents d s₁ = Machine.shiftEvents d s₂ := by
  simp only [Machine.shiftEvents, selectedInput, h.cfg, h.pins, h.shiftSample]

/-- One byte, in two states that agree: both runs complete, emit the same bytes, one at most, and agree again. -/
theorem engineByte_same (b : Byte) {s₁ s₂ : State} (h : SameEngine s₁ s₂) :
    ∃ t₁ t₂ outs, engineByte b s₁ = .next t₁ ∧ engineByte b s₂ = .next t₂ ∧ SameEngine t₁ t₂ ∧
      Emitted s₁ t₁ outs ∧ Emitted s₂ t₂ outs ∧ outs.length ≤ 1 := by
  have ha := h.answerAt 0
  obtain ⟨r, o, p, e₁, d₁, q₁⟩ | ⟨c, n, e₁, d₁, q₁⟩ | ⟨k, c, e₁, q₁⟩ := engineByte_cases b s₁ <;>
    obtain ⟨r', o', p', e₂, d₂, q₂⟩ | ⟨c', n', e₂, d₂, q₂⟩ | ⟨k', c', e₂, q₂⟩ := engineByte_cases b s₂ <;>
    have he := e₁.symm.trans (h.engine.trans e₂)
  · cases d₁.symm.trans d₂
    refine ⟨_, _, _, q₁, q₂, ⟨h.cfg, h.engine, ?_, ?_, congrArg (· + 1) h.consumed, ?_, ?_⟩, ⟨rfl, rfl, rfl, rfl⟩,
      ⟨rfl, ?_, rfl, rfl⟩, ?_⟩
    · simp [countByte, afterBitbang, h.cfg, h.pins]
    · simp [countByte, afterBitbang, h.cfg, h.pins, h.trace, ha]
    · simp [countByte, afterBitbang, afterSamples, h.answers]
    · simp [countByte, afterBitbang, afterSamples, h.answerNo]
    · simp [countByte, afterBitbang, ha]
    · cases r <;> simp
  · cases d₁.symm.trans d₂
  · cases he
  · cases d₁.symm.trans d₂
  · cases d₁.symm.trans d₂
    refine ⟨_, _, [], q₁, q₂, ⟨h.cfg, ?_, ?_, ?_, congrArg (· + 1) h.consumed, h.answers, h.answerNo⟩,
      ⟨rfl, ?_, rfl, rfl⟩, ⟨rfl, ?_, rfl, rfl⟩, Nat.zero_le _⟩
    · simp [countByte, afterShiftHeader, h.engine]
    · simp [countByte, afterShiftHeader, h.cfg, h.pins]
    · simp [countByte, afterShiftHeader, h.cfg, h.trace]
    · simp [countByte, afterShiftHeader]
    · simp [countByte, afterShiftHeader]
  · cases he
  · cases he
  · cases he
  · cases he
    refine ⟨_, _, _, q₁, q₂, ⟨h.cfg, rfl, ?_, ?_, congrArg (· + 1) h.consumed, ?_, ?_⟩, ⟨rfl, rfl, rfl, rfl⟩,
      ⟨rfl, ?_, rfl, rfl⟩, ?_⟩
    · simp [countByte, afterDataByte, h.pins]
    · simp [countByte, afterDataByte, h.trace, h.shiftEvents]
    · simp [countByte, afterDataByte, afterSamples, h.answers]
    · simp [countByte, afterDataByte, afterSamples, h.answerNo]
    · simp [countByte, afterDataByte, h.shiftResult]
    · cases c <;> simp

/-- A call, in two states that agree: both runs complete, emit the same bytes, as many as they read at most, and
agree again. -/
theorem engineBytes_same : ∀ (bs : List Byte) {s₁ s₂ : State}, SameEngine s₁ s₂ →
    ∃ t₁ t₂ outs, engineBytes bs s₁ = .next t₁ ∧ engineBytes bs s₂ = .next t₂ ∧ SameEngine t₁ t₂ ∧
      Emitted s₁ t₁ outs ∧ Emitted s₂ t₂ outs ∧ outs.length ≤ bs.length
  | [], s₁, s₂, h => ⟨s₁, s₂, [], rfl, rfl, h, ⟨rfl, by simp, rfl, rfl⟩, ⟨rfl, by simp, rfl, rfl⟩, Nat.le_refl 0⟩
  | b :: bs, s₁, s₂, h => by
    obtain ⟨u₁, u₂, o, hu₁, hu₂, hu, f₁, f₂, hl⟩ := engineByte_same b h
    obtain ⟨t₁, t₂, os, ht₁, ht₂, ht, g₁, g₂, hk⟩ := engineBytes_same bs hu
    refine ⟨t₁, t₂, o ++ os, by rw [engineBytes_cons, hu₁]; exact ht₁, by rw [engineBytes_cons, hu₂]; exact ht₂, ht,
      ⟨g₁.cfg.trans f₁.cfg, ?_, g₁.txlog.trans f₁.txlog, ?_⟩, ⟨g₂.cfg.trans f₂.cfg, ?_, g₂.txlog.trans f₂.txlog, ?_⟩, ?_⟩
    · rw [g₁.transport, f₁.transport]; simp
    · rw [g₁.env, f₁.env]
    · rw [g₂.transport, f₂.transport]; simp
    · rw [g₂.env, f₂.env]
    · simp only [List.length_append, List.length_cons]; omega

/-! ### LOOP -/

theorem loopTrace_append (as bs : List Event) : ∀ level : Bool,
    loopTrace level (as ++ bs) = (loopTrace level as && loopTrace (as.foldl dataOutAfter level) bs) := by
  induction as with
  | nil => exact fun _ => rfl
  | cons e es ih =>
    intro level
    rw [List.cons_append, loopTrace, loopTrace, ih, Bool.and_assoc, List.foldl_cons]

/-- setOutputEnable writes no level and takes no sample. -/
theorem loop_oeEvents (c : Config) (old e level : Bool) :
    loopTrace level (oeEvents c old e) = true ∧ (oeEvents c old e).foldl dataOutAfter level = level := by
  unfold oeEvents
  split
  · exact ⟨rfl, rfl⟩
  · cases c.oeMode <;> exact ⟨rfl, rfl⟩

/-- A shifted byte leaves data-out at its bit 7, and its events are those of LOOP exactly when every sample is the
bit sent just before it (R76, R79). -/
theorem loop_shiftEvents (d : Byte) (s : State) (level : Bool) :
    (loopTrace level (shiftEvents d s) = true ↔ ∀ k, k < 8 → shiftSample s k = d.getLsbD k) ∧
    (shiftEvents d s).foldl dataOutAfter level = d.getLsbD 7 := by
  have bit : ∀ (sel : Input) (x b level : Bool), (bitEvents sel x b).foldl dataOutAfter level = x := by
    intro _ x _ _; cases x <;> rfl
  have ok : ∀ (sel : Input) (x b level : Bool), loopTrace level (bitEvents sel x b) = decide (b = x) := by
    intro _ x b _; cases x <;> cases b <;> rfl
  simp only [shiftEvents, List.flatMap_cons, List.flatMap_nil, List.append_nil, loopTrace_append, List.foldl_append,
    bit, ok, Bool.and_eq_true, decide_eq_true_eq, and_true]
  refine ⟨fun h k hk => ?_, fun h => ?_⟩
  · interval_cases k <;> simp only [h]
  · simp only [h, Nat.reduceLT, and_self]

end Sys2Proof.Machine
end

