-- ==== Sys2Proof/Laws/Memory.lean ====
section
/-! SUPPORT. The accumulator's storage: read after write, the canonical form is kept, and what the operations do to
a memory whose listed indices are `0 .. n-1` (spec/10_state.md R25, spec/42_transport.md R97). -/

namespace Sys2Proof.Machine

theorem Memory.read?_write_same (m : Memory) (a : Nat) (v : Byte) : Memory.read? (m.write a v) a = some v := by
  induction m with
  | nil => simp [Memory.write, Memory.read?]
  | cons c m ih =>
    obtain ⟨k, w⟩ := c
    unfold Memory.write
    split
    · simp [Memory.read?]
    · split
      · simp [Memory.read?]
      · simp [Memory.read?, *]

theorem Memory.read?_write_other (m : Memory) {a b : Nat} (v : Byte) (h : b ≠ a) :
    Memory.read? (m.write a v) b = Memory.read? m b := by
  induction m with
  | nil => simp [Memory.write, Memory.read?, h]
  | cons c m ih =>
    obtain ⟨k, w⟩ := c
    unfold Memory.write
    split
    · simp [Memory.read?, h]
    · split
      · subst k; simp [Memory.read?, h]
      · simp [Memory.read?, ih]

theorem Memory.mem_write {m : Memory} {a : Nat} {v : Byte} {c : Host.Cell} (h : c ∈ m.write a v) :
    c = (a, v) ∨ c ∈ m := by
  induction m with
  | nil => simpa [Memory.write] using h
  | cons d m ih =>
    obtain ⟨k, w⟩ := d
    unfold Memory.write at h
    split at h
    · simpa using h
    · split at h
      · simp only [List.mem_cons] at h ⊢; tauto
      · rcases List.mem_cons.1 h with h | h
        · exact .inr (by simp [h])
        · rcases ih h with h | h
          · exact .inl h
          · exact .inr (List.mem_cons_of_mem _ h)

/-- MemWrite keeps the canonical form. -/
theorem Memory.wf_write {m : Memory} (h : m.wf) (a : Nat) (v : Byte) : (m.write a v).wf := by
  induction m with
  | nil => simp [Memory.write]
  | cons c m ih =>
    obtain ⟨k, w⟩ := c
    obtain ⟨hk, hm⟩ := List.pairwise_cons.1 h
    unfold Memory.write
    split
    · rename_i hlt
      refine List.pairwise_cons.2 ⟨fun d hd => ?_, h⟩
      rcases List.mem_cons.1 hd with rfl | hd
      · exact hlt
      · exact Nat.lt_trans hlt (hk d hd)
    · split
      · subst k; exact List.pairwise_cons.2 ⟨hk, hm⟩
      · rename_i h1 h2
        refine List.pairwise_cons.2 ⟨fun d hd => ?_, ih hm⟩
        rcases Memory.mem_write hd with rfl | hd
        · exact Nat.lt_of_le_of_ne (Nat.le_of_not_lt h1) (Ne.symm h2)
        · exact hk d hd

/-- Compaction keeps the canonical form. -/
theorem Memory.wf_dropFront {m : Memory} (h : m.wf) (n : Nat) : (m.dropFront n).wf := by
  unfold Memory.wf Memory.dropFront
  rw [List.pairwise_map]
  refine List.Pairwise.imp_of_mem ?_ (h.filter _)
  intro c d hc hd hlt
  have := (List.mem_filter.1 hc).2
  have := (List.mem_filter.1 hd).2
  simp only [decide_eq_true_eq] at *
  omega

/-- A memory whose listed indices are `0 .. n-1` is in the canonical form. -/
theorem Memory.wf_of_filled {m : Memory} {n : Nat} (h : m.map Prod.fst = List.range n) : m.wf := by
  have := List.pairwise_lt_range (n := n)
  rw [← h, List.pairwise_map] at this
  exact this

/-- Writing above every listed index appends the cell. -/
theorem Memory.write_above {m : Memory} {a : Nat} (h : ∀ c ∈ m, c.1 < a) (v : Byte) :
    m.write a v = m ++ [(a, v)] := by
  induction m with
  | nil => rfl
  | cons c m ih =>
    obtain ⟨k, w⟩ := c
    have hk : k < a := h (k, w) (by simp)
    have := ih (fun c hc => h c (List.mem_cons_of_mem _ hc))
    simp [Memory.write, Nat.not_lt_of_lt hk, Nat.ne_of_gt hk, this]

theorem Memory.lt_of_filled {m : Memory} {n : Nat} (h : m.map Prod.fst = List.range n) {c : Host.Cell}
    (hc : c ∈ m) : c.1 < n := by
  have : c.1 ∈ m.map Prod.fst := List.mem_map_of_mem hc
  rw [h] at this
  exact List.mem_range.1 this

/-- Appending at index `n` to a memory filled below `n`. -/
theorem Memory.write_filled {m : Memory} {n : Nat} (h : m.map Prod.fst = List.range n) (v : Byte) :
    m.write n v = m ++ [(n, v)] := Memory.write_above (fun _ hc => Memory.lt_of_filled h hc) v

theorem Memory.filled_write {m : Memory} {n : Nat} (h : m.map Prod.fst = List.range n) (v : Byte) :
    (m.write n v).map Prod.fst = List.range (n + 1) := by
  rw [Memory.write_filled h, List.map_append, h, List.range_succ]; rfl

theorem Memory.length_of_filled {m : Memory} {n : Nat} (h : m.map Prod.fst = List.range n) : m.length = n := by
  simpa using congrArg List.length h

/-- Reading a filled memory is looking up its bytes. -/
theorem Memory.read?_filled {m : Memory} {n : Nat} (h : m.map Prod.fst = List.range n) (a : Nat) :
    Memory.read? m a = (m.map Prod.snd)[a]? := by
  suffices H : ∀ (m : Memory) (k : Nat), m.map Prod.fst = List.range' k m.length →
      Memory.read? m a = if k ≤ a then (m.map Prod.snd)[a - k]? else none by
    have hl := Memory.length_of_filled h
    have := H m 0 (by rw [h, hl, List.range_eq_range'])
    simpa using this
  intro m
  induction m with
  | nil => intro k _; simp [Memory.read?]
  | cons c m ih =>
    intro k hk
    obtain ⟨i, w⟩ := c
    simp only [List.map_cons, List.length_cons, List.range'_succ, List.cons.injEq] at hk
    obtain ⟨rfl, hk⟩ := hk
    rw [Memory.read?, ih (i + 1) hk]
    by_cases h1 : a = i
    · simp [h1]
    · by_cases h2 : i ≤ a
      · have h3 : i + 1 ≤ a := by omega
        have h4 : a - i = (a - (i + 1)) + 1 := by omega
        simp [h1, h2, h3, h4]
      · have h3 : ¬ i + 1 ≤ a := by omega
        simp [h1, h2, h3]

theorem Memory.length_readN (free : Nat → Byte) (m : Memory) : ∀ k a : Nat, (m.readN free a k).length = k
  | 0, _ => rfl
  | k + 1, a => congrArg (· + 1) (Memory.length_readN free m k (a + 1))

/-- A byte that holds a value is read as that value. -/
theorem Memory.readN_value (free : Nat → Byte) (m : Memory) : ∀ (k a i : Nat) (v : Byte), i < k →
    Memory.read? m (a + i) = some v → (m.readN free a k)[i]? = some v
  | k + 1, a, 0, v, _, h => by
    rw [Nat.add_zero] at h
    simp [Memory.readN, h]
  | k + 1, a, i + 1, v, hi, h => by
    rw [Memory.readN, List.getElem?_cons_succ]
    exact Memory.readN_value free m k (a + 1) i v (by omega) (by rw [← h]; congr 1; omega)

/-- MemRead of a filled memory within its bounds gives the bytes in order. -/
theorem Memory.readN_filled {m : Memory} {n : Nat} (h : m.map Prod.fst = List.range n) (free : Nat → Byte) :
    ∀ (k a : Nat), a + k ≤ n → m.readN free a k = ((m.map Prod.snd).drop a).take k := by
  intro k
  induction k with
  | zero => intro a _; simp [Memory.readN]
  | succ k ih =>
    intro a hk
    have hlen : a < (m.map Prod.snd).length := by
      rw [List.length_map, Memory.length_of_filled h]; omega
    rw [Memory.readN, Memory.read?_filled h, ih (a + 1) (by omega), List.getElem?_eq_getElem hlen,
      List.drop_eq_getElem_cons hlen]
    simp

theorem Memory.dropFront_map (m : Memory) (n : Nat) :
    (m.dropFront n).map Prod.fst = ((m.map Prod.fst).filter (fun k => decide (n ≤ k))).map (· - n) := by
  simp [Memory.dropFront, List.filter_map, Function.comp_def]

/-- Compaction of a filled memory leaves it filled. -/
theorem Memory.filled_dropFront {m : Memory} {len : Nat} (h : m.map Prod.fst = List.range len) {n : Nat}
    (hn : n ≤ len) : (m.dropFront n).map Prod.fst = List.range (len - n) := by
  rw [Memory.dropFront_map, h]
  obtain ⟨k, rfl⟩ : ∃ k, len = n + k := ⟨len - n, by omega⟩
  rw [List.range_add, List.filter_append]
  have h1 : (List.range n).filter (fun k => decide (n ≤ k)) = [] := by
    simp only [List.filter_eq_nil_iff, List.mem_range, decide_eq_true_eq]; omega
  have h2 : (List.map (n + ·) (List.range k)).filter (fun k => decide (n ≤ k)) = List.map (n + ·) (List.range k) := by
    simp [List.filter_eq_self]
  rw [h1, h2]
  simp [Function.comp_def]

/-- Compaction of a filled memory drops the oldest bytes and keeps the others in order. -/
theorem Memory.bytes_dropFront {m : Memory} {len : Nat} (h : m.map Prod.fst = List.range len) (n : Nat) :
    (m.dropFront n).map Prod.snd = (m.map Prod.snd).drop n := by
  suffices H : ∀ (m : Memory) (k : Nat), m.map Prod.fst = List.range' k m.length →
      (m.filter (fun c => decide (n ≤ c.1))).map Prod.snd = (m.map Prod.snd).drop (n - k) by
    have hl := Memory.length_of_filled h
    have := H m 0 (by rw [h, hl, List.range_eq_range'])
    simpa [Memory.dropFront, Function.comp_def] using this
  intro m
  induction m with
  | nil => intro k _; simp
  | cons c m ih =>
    intro k hk
    obtain ⟨i, w⟩ := c
    simp only [List.map_cons, List.length_cons, List.range'_succ, List.cons.injEq] at hk
    obtain ⟨rfl, hk⟩ := hk
    have := ih (i + 1) hk
    by_cases h1 : n ≤ i
    · have h2 : n - i = 0 := by omega
      have h3 : n - (i + 1) = 0 := by omega
      simp_all
    · have h2 : n - i = (n - (i + 1)) + 1 := by omega
      simp_all

end Sys2Proof.Machine
end

