-- ==== Sys2Proof/Laws/PerInstr.lean ====
section
/-! SUPPORT. The encoding of each instruction against its row of spec/opcode_table.json (spec/30_encoding.md R56 to
R58): the encoder's byte has the row's fixed bits, in the row's mode and in no other mode's row. -/

namespace Sys2Proof.Laws.TableBits

/-- The encoded byte of an instruction matches, in the instruction's mode, exactly the row with its mnemonic. -/
def Statement (i : Instr) : Prop :=
  ∀ row ∈ opcodeTable,
    (row.matchesByte i.decodeMode (encode i) = true ↔ row.mnemonic = i.mnemonic)

theorem bitbang (r o : Bool) (p : Levels) : Statement (.bitbang r o p) := by
  have h : ∀ (r o : Bool) (p : Levels), encode (.bitbang r o p) &&& 0x80#8 = 0x00#8 := by decide
  simp [Statement, opcodeTable, OpcodeRow.matchesByte, Instr.decodeMode, Instr.mnemonic, h]

theorem shift (c : Bool) (n : BurstLen) : Statement (.shift c n) := by
  have h : ∀ (c : Bool) (n : BurstLen), encode (.shift c n) &&& 0x80#8 = 0x80#8 := by decide
  simp [Statement, opcodeTable, OpcodeRow.matchesByte, Instr.decodeMode, Instr.mnemonic, h]

theorem data (d : Byte) : Statement (.data d) := by
  simp [Statement, opcodeTable, OpcodeRow.matchesByte, Instr.decodeMode, Instr.mnemonic]

end Sys2Proof.Laws.TableBits
end

