-- ==== Sys2Proof/Laws/Transport.lean ====
section
/-! SUPPORT. What the Transport Adapter's operations can do, once each (spec/42_transport.md R91 to R98). -/

namespace Sys2Proof.Machine

/-- What a well-formed configuration means, in numbers (spec/00_scope.md R7, R8). -/
theorem config_wf_iff (c : Config) : c.wf = true ↔
    64 ≤ c.rxFifoCap ∧ (c.auxPin < c.pinBase ∨ c.pinBase + 7 ≤ c.auxPin) ∧ 128 ≤ c.accCap := by
  simp only [Config.wf, Bool.and_eq_true, Bool.or_eq_true, decide_eq_true_eq, and_assoc]
  exact Iff.rfl

/-- The output list enters a filled accumulator that has room for it: the bytes stand behind those already there
(R91, R93). -/
theorem appendBytes_filled : ∀ (vs : List Byte) (s : State), AccFilled s →
    s.transport.accLen + vs.length ≤ s.cfg.accCap →
    ∃ m : Memory, appendBytes vs s =
        .next { s with transport := { s.transport with acc := m, accLen := s.transport.accLen + vs.length } } ∧
      m.map Prod.fst = List.range (s.transport.accLen + vs.length) ∧
      m.map Prod.snd = s.transport.acc.map Prod.snd ++ vs := by
  intro vs
  induction vs with
  | nil => intro s h _; exact ⟨s.transport.acc, rfl, h, by simp⟩
  | cons v vs ih =>
    intro s h hc
    simp only [List.length_cons] at hc
    have h1 : s.transport.accLen < s.cfg.accCap := by omega
    have hw := Memory.write_filled h v
    rw [appendBytes, appendByte, memWrite, if_pos h1]
    simp only [andThen_next]
    obtain ⟨m, hm, hr, hb⟩ := ih
      { s with transport := { s.transport with
        acc := s.transport.acc.write s.transport.accLen v, accLen := s.transport.accLen + 1 } }
      (Memory.filled_write h v) (by simp only; omega)
    refine ⟨m, ?_, ?_, ?_⟩
    · rw [hm]; simp [Nat.add_assoc, Nat.add_comm 1]
    · rw [hr]; simp [Nat.add_assoc, Nat.add_comm 1]
    · rw [hb]; simp [hw]

/-- The end of `process` with a filled accumulator that has room: its output stands behind the bytes already there
(R91, R93). -/
theorem processEnd_filled {s : State} (h : AccFilled s)
    (hc : s.transport.accLen + s.transport.out.length ≤ s.cfg.accCap) :
    ∃ m : Memory, processEnd s = .next (setPhase .flushing (clearOut { s with transport := { s.transport with
          acc := m, accLen := s.transport.accLen + s.transport.out.length } })) ∧
      m.map Prod.fst = List.range (s.transport.accLen + s.transport.out.length) ∧
      m.map Prod.snd = accBytes s ++ s.transport.out := by
  obtain ⟨m, hm, hr, hb⟩ := appendBytes_filled s.transport.out s h hc
  exact ⟨m, by rw [processEnd, hm]; rfl, hr, hb⟩

/-- Step 2 with a filled accumulator that has room: the engine's run on the chunk, and its output at the end of the
accumulator (R81, R93). -/
theorem readAndProcess_filled {k : Nat} {s t : State} {outs : List Byte} (h : AccFilled s)
    (ht : engineBytes (s.env.rxq.take k) (setChunk [] (readChunk k s)) = .next t)
    (he : Emitted (setChunk [] (readChunk k s)) t outs)
    (hc : s.transport.accLen + outs.length ≤ s.cfg.accCap) :
    ∃ m : Memory, readAndProcess k s = .next { t with transport :=
          { s.transport with
            phase := .flushing
            chunk := []
            out := []
            acc := m
            accLen := s.transport.accLen + outs.length } } ∧
      m.map Prod.fst = List.range (s.transport.accLen + outs.length) ∧ m.map Prod.snd = accBytes s ++ outs := by
  have hf : t.transport = { s.transport with phase := .processing, chunk := [], out := outs } := he.transport
  have hl : t.transport.accLen + t.transport.out.length = s.transport.accLen + outs.length := by rw [hf]
  obtain ⟨m, hm, hr, hb⟩ := processEnd_filled (s := t) (by unfold AccFilled at h ⊢; rw [hf]; exact h)
    (by rw [hl, he.cfg]; exact hc)
  refine ⟨m, ?_, hl ▸ hr, ?_⟩
  · rw [readAndProcess, ht, andThen_next, hm, hl]
    simp [setPhase, clearOut, hf]
  · rw [hb, accBytes, accBytes, hf]

/-- Reading a filled accumulator within its bounds gives its bytes (R40). -/
theorem accRead_filled {s : State} (h : AccFilled s) {a n : Nat} (hn : a + n ≤ s.transport.accLen) :
    accRead a n s = ((accBytes s).drop a).take n := by
  rw [accRead, Memory.readN_filled h _ n a hn, accBytes]

theorem payloadLen_le (s : State) : payloadLen s ≤ s.transport.accLen := Nat.min_le_left _ _

/-- The flush reads within the bounds of MemRead, so it always sends its frame (R40, R96). -/
theorem sendFrame_eq (t : Nat) (s : State) :
    sendFrame t (payloadLen s) s =
      .next (compact (payloadLen s) (recordFlush t (txSend (frame s.cfg (accRead 0 (payloadLen s) s)) s))) := by
  rw [sendFrame, memRead, Nat.zero_add, if_pos (payloadLen_le s)]

/-- The flush condition in numbers (R95). -/
theorem flushDue_iff (t : Nat) (s : State) :
    flushDue t s = true ↔ 64 ≤ s.transport.accLen + 2 ∨ 10 < elapsed s.cfg t s.transport.lastFlush := by
  rw [flushDue, Bool.or_eq_true, decide_eq_true_eq, decide_eq_true_eq]
  rfl

/-- What steps 3 and 4 can do: nothing, or send one frame (R95, R96). -/
theorem tickEnd_cases (s : State) :
    ((flushDue (timerRead s) s && s.env.txReady) = false ∧ tickEnd s = .next (setPhase .betweenTicks s)) ∨
    ((flushDue (timerRead s) s && s.env.txReady) = true ∧
      tickEnd s = .next (setPhase .betweenTicks (compact (payloadLen s) (recordFlush (timerRead s)
        (txSend (frame s.cfg (accRead 0 (payloadLen s) s)) s))))) := by
  unfold tickEnd flushStep txReady
  cases h : flushDue (timerRead s) s && s.env.txReady
  · exact .inl ⟨rfl, by simp⟩
  · exact .inr ⟨rfl, by simp [sendFrame_eq]⟩

/-- The same with the accumulator filled: the frame carries its oldest bytes. -/
theorem tickEnd_filled {s : State} (h : AccFilled s) :
    ((flushDue (timerRead s) s && s.env.txReady) = false ∧ tickEnd s = .next (setPhase .betweenTicks s)) ∨
    ((flushDue (timerRead s) s && s.env.txReady) = true ∧
      tickEnd s = .next (setPhase .betweenTicks (compact (payloadLen s) (recordFlush (timerRead s)
        (txSend (frame s.cfg ((accBytes s).take (payloadLen s))) s))))) := by
  have hr : accRead 0 (payloadLen s) s = (accBytes s).take (payloadLen s) :=
    accRead_filled h (by have := payloadLen_le s; omega)
  exact hr ▸ tickEnd_cases s

/-- What the output of `process` can do on its way into the accumulator: all of it enters, or a byte meets the
bound (R40, R93). -/
theorem appendBytes_cases : ∀ (vs : List Byte) (s : State),
    ((vs = [] ∨ s.transport.accLen + vs.length ≤ s.cfg.accCap) ∧ ∃ m : Memory, appendBytes vs s =
      .next { s with transport := { s.transport with acc := m, accLen := s.transport.accLen + vs.length } }) ∨
    (vs ≠ [] ∧ s.cfg.accCap < s.transport.accLen + vs.length ∧ appendBytes vs s = .fault .accOverflow)
  | [], s => .inl ⟨.inl rfl, s.transport.acc, rfl⟩
  | v :: vs, s => by
    rw [appendBytes, appendByte, memWrite]
    by_cases h : s.transport.accLen < s.cfg.accCap
    · rw [if_pos h]
      simp only [andThen_next]
      obtain ⟨hl, m, hm⟩ | ⟨hv, hl, hm⟩ := appendBytes_cases vs { s with transport := { s.transport with
        acc := s.transport.acc.write s.transport.accLen v, accLen := s.transport.accLen + 1 } }
      · refine .inl ⟨.inr ?_, m, ?_⟩
        · rcases hl with rfl | hl
          · exact h
          · simp only [List.length_cons] at hl ⊢; omega
        · rw [hm]; simp [Nat.add_assoc, Nat.add_comm 1]
      · refine .inr ⟨List.cons_ne_nil _ _, ?_, hm⟩
        simp only [List.length_cons] at hl ⊢; omega
    · rw [if_neg h]
      exact .inr ⟨List.cons_ne_nil _ _, by simp only [List.length_cons]; omega, rfl⟩

/-- The chunk size is in the range of R93. -/
theorem chunkSize_range {s : State} (h : s.env.rxq ≠ []) :
    1 ≤ chunkSize s ∧ chunkSize s ≤ chunkMax ∧ chunkSize s ≤ s.env.rxq.length := by
  have : 0 < s.env.rxq.length := List.length_pos_iff.2 h
  simp only [chunkSize, chunkMax]
  omega

theorem mayRead_iff (s : State) : mayRead s = true ↔ s.env.rxq ≠ [] ∧ s.transport.accLen ≤ readGate := by
  simp [mayRead]

/-- What the beginning of a tick can do: read a chunk, go on without one, or drop the output (R91). -/
theorem tickBegin_cases (s : State) :
    (s.env.linkActive = true ∧ s.env.rxq ≠ [] ∧ s.transport.accLen ≤ readGate ∧
      tickBegin s = readChunk (chunkSize s) s) ∨
    (s.env.linkActive = true ∧ ¬ (s.env.rxq ≠ [] ∧ s.transport.accLen ≤ readGate) ∧
      tickBegin s = setPhase .flushing s) ∨
    (s.env.linkActive = false ∧ tickBegin s = dropOutput s) := by
  unfold tickBegin
  cases hl : s.env.linkActive
  · exact .inr (.inr ⟨rfl, rfl⟩)
  · by_cases hr : mayRead s = true
    · have := (mayRead_iff s).1 hr
      exact .inl ⟨rfl, this.1, this.2, by simp [hr]⟩
    · exact .inr (.inl ⟨rfl, fun h => hr ((mayRead_iff s).2 h), by simp [hr]⟩)

end Sys2Proof.Machine
end

