-- ==== Sys2Proof/Laws/Step.lean ====
section
/-! SUPPORT. What one step can do, said once: whose turn it is, and what that agent's move is. -/

namespace Sys2Proof.Machine

/-- What a core step can do (spec/42_transport.md R91). -/
theorem coreStep_cases (s : State) :
    (s.transport.phase = .betweenTicks ∧ coreStep s = .next (tickBegin s)) ∨
    (∃ b bs, s.transport.phase = .processing ∧ s.transport.chunk = b :: bs ∧
      coreStep s = engineByte b (setChunk bs s)) ∨
    (s.transport.phase = .processing ∧ s.transport.chunk = [] ∧ coreStep s = processEnd s) ∨
    (s.transport.phase = .flushing ∧ coreStep s = tickEnd s) := by
  unfold coreStep
  cases hp : s.transport.phase
  · exact .inl ⟨rfl, rfl⟩
  · cases hc : s.transport.chunk with
    | nil => exact .inr (.inr (.inl ⟨rfl, rfl, rfl⟩))
    | cons b bs => exact .inr (.inl ⟨b, bs, rfl, rfl, rfl⟩)
  · exact .inr (.inr (.inr ⟨rfl, rfl⟩))

/-- What a step can do: a core step, an event, or one of the environment's moves (spec/00_scope.md R11). -/
theorem step_cases (s : State) :
    (nextTurn s.env = .core ∧ step s = coreStep (takeTurn s)) ∨
    (∃ e, nextTurn s.env = .event e ∧ step s = .next (takeEvent e (takeTurn s))) ∨
    (∃ b, nextTurn s.env = .rx b ∧ step s = .next (hostSend b (takeTurn s))) ∨
    (∃ up, nextTurn s.env = .link up ∧ step s = .next (setLink up (takeTurn s))) ∨
    (∃ r, nextTurn s.env = .ready r ∧ step s = .next (setReady r (takeTurn s))) ∨
    (∃ k, nextTurn s.env = .receive k ∧ step s = .next (setReceive k (takeTurn s))) ∨
    (∃ ms, nextTurn s.env = .elapse ms ∧ step s = .next (elapse ms (takeTurn s))) := by
  unfold step
  cases nextTurn s.env <;> simp [runTurn]

theorem takeEvent_cases (e : Lifecycle) (s : State) :
    (eventResets s.cfg e = true ∧ takeEvent e s = engineReset s) ∨
    (eventResets s.cfg e = false ∧ takeEvent e s = s) := by
  unfold takeEvent
  cases h : eventResets s.cfg e <;> simp

/-- What the host's attempt to send a byte can do (spec/10_state.md R33). -/
theorem hostSend_cases (b : Byte) (s : State) :
    (s.env.rxq.length < s.cfg.rxFifoCap ∧
      hostSend b s = { s with env := { s.env with rxq := s.env.rxq ++ [b] } }) ∨
    (s.cfg.rxFifoCap ≤ s.env.rxq.length ∧ hostSend b s = s) := by
  unfold hostSend
  by_cases h : s.env.rxq.length < s.cfg.rxFifoCap
  · exact .inl ⟨h, by rw [if_pos h]⟩
  · exact .inr ⟨Nat.le_of_not_lt h, by rw [if_neg h]⟩

end Sys2Proof.Machine
end

