-- ==== Sys2Proof/Tests/Slice0.lean ====
section
/-! SUPPORT. The model's own tests. Expected values come from spec/95_test_vectors.md (a test's comment names the
vector), from the examples of the rules, or from the encodings of spec/30_encoding.md. After them, a witness for the
hypotheses of every statement that has some. -/

open Sys2Proof
open Sys2Proof.Machine hiding State
open Sys2Proof.Machine (State)

namespace Sys2Proof.Tests

/-! ### Small states -/

/-- The defaults of R8 with an enable mode, and values for the open parameters. -/
def config (m : OeMode) : Config where
  hdr0 := 0xA1#8
  hdr1 := 0xA2#8
  pinBase := 2
  oeMode := m
  auxPin := 9
  auxActive := true
  shiftSel0 := .status
  shiftSel1 := .dataIn
  zeroLenClkLow := true
  resetOnUnmountSuspend := false
  accCap := 128
  rxFifoCap := 64
  timerBits := none
  tBbSetup := 0
  tUnit := 0

/-- `S0` of the test vectors. -/
def s0 (m : OeMode) : State := State.powerOn (config m)

/-- An engine state, an output enable with its pin, a latch and the target's answers. -/
def engineAt (m : OeMode) (e : Engine) (oe : Bool) (latch : Levels) (answers : List Sample) : State :=
  { s0 m with
    engine := e
    pins :=
      { oe := oe, outLatch := latch, dir := oe || decide (m = .aux), auxLevel := oe, initDone := true }
    env := { (s0 m).env with answers := answers } }

/-- `n` bytes unsent: `acc[k] = k`. -/
def filled (n : Nat) : Memory := (List.range n).map (fun k => (k, BitVec.ofNat 8 k))

/-- A place in the tick with the turns to come, `n` bytes unsent and the link up. -/
def atPhase (p : Phase) (ts : List Turn) (n : Nat) (s : State) : State :=
  { s with
    transport := { s.transport with phase := p, acc := filled n, accLen := n }
    env := { s.env with turns := ts, linkActive := true, txReady := true } }

/-- The core loop about to interpret a byte. -/
def withByte (b : Byte) (s : State) : State :=
  { atPhase .processing [.core] 0 s with
    transport := { (atPhase .processing [.core] 0 s).transport with chunk := [b] } }

/-- Bytes waiting in the FIFO. -/
def withRx (bs : List Byte) (s : State) : State := { s with env := { s.env with rxq := bs } }

/-- The link down. -/
def linkDown (s : State) : State := { s with env := { s.env with linkActive := false } }

/-- The flush time and the timer. -/
def withTime (last now : Nat) (s : State) : State :=
  { s with transport := { s.transport with lastFlush := last }, env := { s.env with now := now } }

/-- The next state, if there is one. -/
def after (r : Result) : Option State :=
  match r with
  | .next s => some s
  | .fault _ => none
  | .refused _ => none

/-- Engine, latch, output, trace: what an engine test looks at. -/
def engineView (r : Result) : Option (Engine × Levels × List Byte × List Event) :=
  (after r).map (fun t => (t.engine, t.pins.outLatch, t.transport.out, t.logs.trace))

/-! ### Well-formedness: ill-formed terms are refused -/

theorem test_data_refused_in_idle : (Instr.data 0x80#8).legalIn .idle = false := by decide
theorem test_bitbang_refused_in_burst : (Instr.bitbang true false 0#5).legalIn .shiftActive = false := by decide
theorem test_shift_refused_in_burst : (Instr.shift true 1#6).legalIn .shiftActive = false := by decide
theorem test_program_refuses_data_at_start : programLegal [.data 1#8] = false := by decide
theorem test_program_refuses_bitbang_in_burst :
    programLegal [.shift false 2#6, .data 1#8, .bitbang false false 0#5] = false := by decide
theorem test_program_refuses_extra_data : programLegal [.shift false 1#6, .data 1#8, .data 2#8] = false := by decide
theorem test_program_accepts_a_burst :
    programLegal [.shift true 2#6, .data 1#8, .data 2#8, .bitbang true true 8#5, .shift true 0#6] = true := by decide
theorem test_pseudo_refuses_empty : (Pseudo.shiftw []).wf = false ∧ (Pseudo.shiftr []).wf = false := by decide
theorem test_pseudo_refuses_64 :
    (Pseudo.shiftw (List.replicate 64 0#8)).wf = false ∧ (Pseudo.shiftr (List.replicate 64 0#8)).wf = false ∧
    (Pseudo.shiftr (List.replicate 63 0#8)).wf = true := by decide
theorem test_config_refuses_short_fifo : ({ config .aux with rxFifoCap := 63 } : Config).wf = false := by decide
theorem test_config_refuses_shared_aux_pin :
    ({ config .aux with auxPin := 2 } : Config).wf = false ∧
    ({ config .aux with auxPin := 8 } : Config).wf = false := by decide
theorem test_config_refuses_small_accumulator : ({ config .aux with accCap := 127 } : Config).wf = false := by decide
theorem test_config_accepts_defaults : (config .aux).wf = true ∧ (config .direct).wf = true := by decide

/-! ### Decoding: words written out from R56 to R58 and from V6 -/

theorem test_decode_bitbang : decode .idle 0b01110010#8 = .bitbang true true 0b10010#5 := by decide
theorem test_decode_shift : decode .idle 0b11100101#8 = .shift true 37#6 := by decide
theorem test_decode_data : decode .shiftActive 0b11100101#8 = .data 0xE5#8 := by decide
/-- V6: the ends of every range, which are also the boundary witnesses of DecoderFollowsTheByteRanges. -/
theorem test_decode_range_ends :
    [0x00#8, 0x1F#8, 0x20#8, 0x3F#8, 0x40#8, 0x5F#8, 0x60#8, 0x7F#8].map (decode .idle) =
      [.bitbang false false 0#5, .bitbang false false 31#5, .bitbang false true 0#5, .bitbang false true 31#5,
       .bitbang true false 0#5, .bitbang true false 31#5, .bitbang true true 0#5, .bitbang true true 31#5] ∧
    [0x80#8, 0x81#8, 0xBF#8, 0xC0#8, 0xC1#8, 0xFF#8].map (decode .idle) =
      [.shift false 0#6, .shift false 1#6, .shift false 63#6, .shift true 0#6, .shift true 1#6, .shift true 63#6] ∧
    [0x00#8, 0x80#8, 0xFF#8].map (decode .shiftActive) = [.data 0x00#8, .data 0x80#8, .data 0xFF#8] := by decide
theorem test_decode_table_word :
    decodeTableWord 8 0x65 = some (.bitbang true true 5#5) ∧ decodeTableWord 8 0x83 = some (.shift false 3#6) := by
  decide
/-- The first step after reset runs the word that is placed. -/
theorem test_word_runs_after_reset : ∃ t, step (State.reset.withFetchWord 8 0xC3) = .next t ∧
    t.engine = .shiftActive 3#6 true ∧ t.logs.consumed = 1 := ⟨_, rfl, rfl, rfl⟩
/-- P2 of the spec's programs, from its assembly text. -/
theorem test_assemble_p2 :
    (assemble "BB r=0 oe=1 p=0b01000 ; chip-select\nSHIFTR 0xA5 0x3C\nBB r=1 oe=1 p=8").toOption =
      some [0x28#8, 0xC2#8, 0xA5#8, 0x3C#8, 0x68#8] := by decide
theorem test_assemble_refuses :
    (assemble "DB 5").toOption = none ∧ (assemble "SH c=0 n=1\nBB r=0 oe=0 p=0").toOption = none ∧
    (assemble "BB r=2 oe=0 p=0").toOption = none ∧ (assemble "SH c=0 n=64").toOption = none := by decide

/-! ### The three instructions, one step each -/

/-- The example of R86. -/
theorem test_bitbang_enable_then_sample_then_write :
    engineView (step (withByte 0x65#8 (engineAt .aux .idle false 0b00000#5 [0b01#2]))) =
      some (.idle, 0b00101#5, [0x01#8],
        [.aux true, .dly .oeSettle, .ind true, .s2 0b01#2, .dly .bbSetup, .w 0b11111#5 0b00101#5]) := by decide
/-- V19, and V15's upper sample bit: no output without the read flag. -/
theorem test_bitbang_disable_keeps_levels :
    engineView (step (withByte 0x1F#8 (engineAt .aux .idle true 0b11111#5 [0b10#2]))) =
      some (.idle, 0b11111#5, [],
        [.aux false, .dly .oeSettle, .ind false, .s2 0b10#2, .dly .bbSetup, .w 0b11111#5 0b11111#5]) := by decide
/-- The example of R85. -/
theorem test_shift_starts_burst :
    engineView (step (withByte 0xC3#8 (engineAt .direct .idle false 0b01011#5 []))) =
      some (.shiftActive 3#6 true, 0b01010#5, [], [.w 0b00001#5 0b00000#5]) := by decide
/-- V21 and V22. -/
theorem test_shift_empty_burst :
    engineView (step (withByte 0xC0#8 (engineAt .direct .idle false 0b00011#5 []))) =
      some (.idle, 0b00010#5, [], [.w 0b00001#5 0b00000#5]) ∧
    engineView (step (withByte 0x80#8
        { engineAt .direct .idle false 0b00011#5 [] with cfg := { config .direct with zeroLenClkLow := false } })) =
      some (.idle, 0b00011#5, [], []) := by decide
/-- V11: the samples 0,1,0,1,0,0,1,0 of a one-bit delay, on input 1 since chip-select is 0. -/
theorem test_data_through_a_delay :
    (engineView (step (withByte 0xA5#8 (engineAt .direct (.shiftActive 2#6 true) true 0b00000#5
        [0b01#2, 0b10#2, 0b01#2, 0b10#2, 0b00#2, 0b01#2, 0b10#2, 0b00#2])))).map (fun v => (v.1, v.2.1, v.2.2.1)) =
      some (.shiftActive 1#6 true, 0b10000#5, [0x4A#8]) := by decide
/-- The last byte of a burst that does not capture (V25), on input 0 since chip-select is 1 (V13): the first
iteration's events, and Idle at the end. -/
theorem test_data_last_byte :
    (engineView (step (withByte 0x55#8 (engineAt .direct (.shiftActive 1#6 false) false 0b01000#5
        (List.replicate 8 0b01#2))))).map (fun v => (v.1, v.2.1, v.2.2.1, v.2.2.2.take 5, v.2.2.2.length)) =
      some (.idle, 0b01000#5, [],
        [.w 0b10000#5 0b10000#5, .s1 .dataIn true, .w 0b00001#5 0b00001#5, .dly .clkHigh, .w 0b00001#5 0b00000#5],
        40) := by decide

/-! ### Signal Layer, events and the tick -/

/-- V10. -/
theorem test_masked_write :
    (pinWrite 0b01000#5 0b11111#5 (engineAt .direct .idle false 0b10101#5 [])).pins.outLatch = 0b11101#5 ∧
    (pinWrite 0b01000#5 0b11111#5 (engineAt .direct .idle false 0b10101#5 [])).logs.trace =
      [.w 0b01000#5 0b01000#5] := by decide
/-- V29, AUX. -/
theorem test_reset_in_a_burst :
    engineView (step { engineAt .aux (.shiftActive 5#6 true) true 0b11010#5 [] with
        env := { (s0 .aux).env with turns := [.event .busReset] } }) =
      some (.idle, 0b00000#5, [],
        [.aux false, .dly .oeSettle, .ind false, .w 0b11111#5 0b00000#5]) := by decide
/-- V34: the drop leaves the waiting byte. -/
theorem test_inactive_link_drops :
    (after (step (linkDown (withRx [0x40#8] (withTime 7 9 (atPhase .betweenTicks [.core] 5 (s0 .direct))))))).map
      (fun t => (t.transport.accLen, t.transport.acc.length, t.transport.lastFlush, t.env.rxq, t.logs.txlog.length)) =
      some (0, 0, 7, [0x40#8], 0) := by decide
/-- V37: at the bound there is no flush, one millisecond later there is. -/
theorem test_flush_is_strictly_after_the_bound :
    (after (step (withTime 11 21 (atPhase .flushing [.core] 1 (s0 .direct))))).map (fun t => t.logs.txlog) = some [] ∧
    (after (step (withTime 11 22 (atPhase .flushing [.core] 1 (s0 .direct))))).map
      (fun t => (t.logs.txlog, t.transport.lastFlush, t.transport.accLen)) =
      some ([[0xA1#8, 0xA2#8, 0x00#8]], 22, 0) := by decide
/-- V40: with 65 bytes unsent nothing is read; the flush leaves the last 3 at the front. -/
theorem test_flush_compacts :
    (after (step (withRx [0x40#8] (atPhase .betweenTicks [.core] 65 (s0 .direct))))).map
      (fun t => (t.transport.phase, t.env.rxq)) = some (.flushing, [0x40#8]) ∧
    (after (step (atPhase .flushing [.core] 65 (s0 .direct)))).map (fun t => t.transport.acc) =
      some [(0, 62#8), (1, 63#8), (2, 64#8)] := by decide
/-- V45. -/
theorem test_timer_wrap :
    elapsed { config .direct with timerBits := some 32 } 6 (2 ^ 32 - 5) = 11 := by decide
/-- I14: with a smaller accumulator the overflow is a fault. -/
theorem test_small_accumulator_faults :
    memWrite 4 0#8 { s0 .direct with cfg := { config .direct with accCap := 4 } } = .fault .accOverflow := by rfl

/-! ### Memory -/

theorem reset_memory_wf : Memory.wf State.reset.transport.acc := List.Pairwise.nil

/-! ### Witnesses: states of the invariant -/

theorem filled_ok (n : Nat) : (filled n).map Prod.fst = List.range n := by
  simp [filled, Function.comp_def]

/-- A state of the invariant in each phase. -/
theorem atPhase_inv (m : OeMode) (p : Phase) (ts : List Turn) (n : Nat)
    (h : n ≤ 64 ∨ (n ≤ 128 ∧ p ≠ .processing)) : Inv (atPhase p ts n (s0 m)) where
  cfg := by cases m <;> rfl
  engine := trivial
  gate := by
    cases m with
    | aux => exact ⟨rfl, rfl, rfl⟩
    | direct => exact ⟨rfl, rfl⟩
  accFilled := filled_ok n
  accBounded := by
    show n ≤ 64 + 64
    omega
  phase := by
    cases p with
    | betweenTicks => exact ⟨rfl, rfl⟩
    | flushing => exact ⟨rfl, rfl⟩
    | processing =>
      refine ⟨?_, Nat.zero_le _⟩
      obtain h | ⟨_, h⟩ := h
      · exact h
      · exact absurd rfl h
  frames := fun _ h => nomatch h
  rx := Nat.zero_le _
  flushTime := Nat.le_refl 0

/-- A state of the invariant inside a burst, with its output enabled. -/
theorem burst_inv (m : OeMode) : Inv (engineAt m (.shiftActive 63#6 true) true 0b10110#5 [0b11#2]) where
  cfg := by cases m <;> decide
  engine := by show (63#6 : BurstLen) ≠ 0#6; decide
  gate := by
    cases m with
    | aux => exact ⟨rfl, rfl, rfl⟩
    | direct => exact ⟨rfl, rfl⟩
  accFilled := rfl
  accBounded := Nat.zero_le _
  phase := ⟨rfl, rfl⟩
  frames := fun _ h => nomatch h
  rx := Nat.zero_le _
  flushTime := Nat.le_refl 0

/-! ### Witnesses: the hypotheses of each statement, met together -/

/-- DecodeAndEncodeAgree, for each instruction. -/
theorem witness_decode_and_encode_agree :
    (Instr.bitbang true true 31#5).legalIn .idle = true ∧ (Instr.shift false 0#6).legalIn .idle = true ∧
    (Instr.data 0xFF#8).legalIn .shiftActive = true := by decide

/-- EveryByteMatchesExactlyOneRow. -/
theorem witness_every_byte_matches_one_row :
    ∃ row ∈ opcodeTable, row.matchesByte .shiftActive 0x80#8 = true :=
  ⟨{ mnemonic := "DATA", mask := 0x00#8, pattern := 0x00#8, mode := .shiftActive }, by decide, by decide⟩

/-- PseudoInstructionsExpandToTheirBytes, at both ends of the range. -/
theorem witness_pseudo_lengths :
    (1 ≤ [0xA5#8].length ∧ [0xA5#8].length ≤ 63) ∧
    (1 ≤ (List.replicate 63 0xA5#8).length ∧ (List.replicate 63 0xA5#8).length ≤ 63) := by decide

/-- BitbangSetsOutputEnableThenSamplesThenWrites, DataOutsideABurstIsRefused, LoopbackSampleShowsTheLevelBefore. -/
theorem witness_idle : (engineAt .aux .idle true 0b10000#5 [0b10#2]).engine = .idle := rfl

/-- ShiftForcesClockLowAndStartsTheBurst: a burst, an empty one, and an empty one that leaves the clock. -/
theorem witness_shift :
    ((s0 .aux).engine = .idle ∧ (63#6 : BurstLen) ≠ 0#6) ∧
    ((s0 .aux).engine = .idle ∧ ((0#6 : BurstLen) ≠ 0#6 ∨ (s0 .aux).cfg.zeroLenClkLow = true)) ∧
    ({ s0 .aux with cfg := { config .aux with zeroLenClkLow := false } }.engine = .idle ∧
      ¬ ((0#6 : BurstLen) ≠ 0#6 ∨
        { s0 .aux with cfg := { config .aux with zeroLenClkLow := false } }.cfg.zeroLenClkLow = true)) := by decide

/-- DataShiftsItsByteAndCountsDown, with a capturing byte in the middle and a silent last one. -/
theorem witness_data :
    ((engineAt .aux (.shiftActive 63#6 true) true 8#5 []).engine = .shiftActive 63#6 true ∧
      (63#6 : BurstLen) ≠ 0#6 ∧ (63#6 : BurstLen) ≠ 1#6) ∧
    ((engineAt .direct (.shiftActive 1#6 false) true 0#5 []).engine = .shiftActive 1#6 false ∧
      (1#6 : BurstLen) ≠ 0#6 ∧ (1#6 : BurstLen) = 1#6) := by decide

/-- StepRunsTheDecodedByte. -/
theorem witness_step_runs_the_decoded_byte :
    nextTurn (withByte 0x65#8 (s0 .aux)).env = .core ∧ (withByte 0x65#8 (s0 .aux)).transport.phase = .processing ∧
    (withByte 0x65#8 (s0 .aux)).transport.chunk = 0x65#8 :: [] := ⟨rfl, rfl, rfl⟩

/-- EachInstructionEmitsItsCount. -/
theorem witness_each_instruction_emits_its_count :
    ∃ t, exec (.bitbang true true 5#5) (engineAt .aux .idle false 0#5 [0b11#2]) = .next t := ⟨_, rfl⟩

/-- BurstEmitsOneByteForEachDataByte, LoopbackBurstReturnsItsBytes: the shortest burst and the longest. -/
theorem witness_burst :
    ((s0 .aux).engine = .idle ∧ (1#6 : BurstLen) ≠ 0#6 ∧ [0x55#8].length = (1#6 : BurstLen).toNat) ∧
    ((s0 .aux).engine = .idle ∧ (63#6 : BurstLen) ≠ 0#6 ∧
      (List.replicate 63 0xFF#8).length = (63#6 : BurstLen).toNat) := by decide

/-- LoopbackBurstReturnsItsBytes: V5's samples are those of LOOP, and a target one bit late (V11) is not LOOP. -/
theorem witness_loop_burst :
    (after (engineBytes [0xC1#8, 0x01#8] (engineAt .direct .idle true 0b00000#5 (0b11#2 :: List.replicate 7 0b00#2)))).map
      (fun t => (loopTrace false t.logs.trace, t.transport.out)) = some (true, [0x01#8]) ∧
    (after (engineBytes [0xC1#8, 0x01#8] (engineAt .direct .idle true 0b00000#5
      (0b00#2 :: 0b11#2 :: List.replicate 6 0b00#2)))).map
      (fun t => loopTrace false t.logs.trace) = some false := by decide

/-- LoopbackSampleShowsTheLevelBefore: V20's second byte; the level it writes would not be LOOP's answer. -/
theorem witness_loop_sample :
    (after (engineByte 0x40#8 (engineAt .direct .idle false 0b10000#5 [0b11#2]))).map
      (fun t => (loopTrace true t.logs.trace, t.transport.out)) = some (true, [0x03#8]) ∧
    (after (engineByte 0x40#8 (engineAt .direct .idle false 0b10000#5 [0b00#2]))).map
      (fun t => loopTrace true t.logs.trace) = some false := by decide

/-- BurstMovesOnlyClockAndDataOut: the shortest burst and the longest. -/
theorem witness_burst_latch :
    ((s0 .aux).engine = .idle ∧ ([] ++ [0x55#8]).length = (1#6 : BurstLen).toNat) ∧
    ((s0 .aux).engine = .idle ∧ (List.replicate 62 0xFF#8 ++ [0x80#8]).length = (63#6 : BurstLen).toNat) := by
  decide

/-- EngineFollowsItsTransitionTable, one for each row. -/
theorem witness_transition_table :
    ((s0 .aux).engine = .idle ∧ (0x7F#8 : Byte).getLsbD 7 = false) ∧
    ((s0 .aux).engine = .idle ∧ (0x80#8 : Byte).getLsbD 7 = true) ∧
    ((engineAt .aux (.shiftActive 2#6 true) true 0#5 []).engine = .shiftActive 2#6 true ∧
      2 ≤ (2#6 : BurstLen).toNat) ∧
    (engineAt .aux (.shiftActive 1#6 true) true 0#5 []).engine = .shiftActive 1#6 true := by decide

/-- EngineByteDependsOnEngineAndPinsOnly: two states that agree where it asks and differ in the Transport Adapter,
the logs and the environment. -/
theorem witness_engine_byte_depends :
    let s₁ := engineAt .aux (.shiftActive 2#6 true) true 5#5 [0b11#2]
    let s₂ := countByte (withRx [0x40#8] (withTime 3 9 (atPhase .processing [.core] 7 s₁)))
    s₁.cfg = s₂.cfg ∧ s₁.engine = s₂.engine ∧ s₁.pins.oe = s₂.pins.oe ∧ s₁.pins.outLatch = s₂.pins.outLatch ∧
    (∀ k, answerAt s₁.env k = answerAt s₂.env k) ∧ s₁ ≠ s₂ := by
  refine ⟨rfl, rfl, rfl, rfl, fun _ => rfl, ?_⟩
  intro h
  exact absurd (congrArg (fun s : State => s.logs.consumed) h) (by decide)

/-- GpioWordCarriesTheLevels: an auxiliary pin right above the seven, and one right below. -/
theorem witness_gpio :
    (config .aux).wf = true ∧ ({ config .aux with auxPin := 1 } : Config).wf = true := by decide

/-- SetOutputEnableIsDebounced and EnableChangeShowsTheOldLatchOrFloats, each clause in both directions. -/
theorem witness_set_output_enable :
    (true = (engineAt .aux .idle true 9#5 []).pins.oe ∧ false = (engineAt .direct .idle false 9#5 []).pins.oe) ∧
    (true ≠ (engineAt .aux .idle false 9#5 []).pins.oe ∧ (engineAt .aux .idle false 9#5 []).cfg.oeMode = .aux) ∧
    (false ≠ (engineAt .direct .idle true 9#5 []).pins.oe ∧
      (engineAt .direct .idle true 9#5 []).cfg.oeMode = .direct) := by decide

/-- BusShowsTheLatchExactlyWhenEnabled, driven and floating; EveryStepCompletesUnderTheInvariant. -/
theorem witness_bus :
    (Inv (engineAt .aux (.shiftActive 63#6 true) true 0b10110#5 [0b11#2]) ∧
      (engineAt .aux (.shiftActive 63#6 true) true 0b10110#5 [0b11#2]).pins.oe = true) ∧
    (Inv (atPhase .betweenTicks [.core] 0 (s0 .direct)) ∧
      (atPhase .betweenTicks [.core] 0 (s0 .direct)).pins.oe = false) :=
  ⟨⟨burst_inv .aux, rfl⟩, ⟨atPhase_inv .direct .betweenTicks [.core] 0 (.inl (by decide)), rfl⟩⟩

/-- A machine before `initialize()`. -/
def uninitialized (m : OeMode) : State := { s0 m with pins := { (s0 m).pins with outLatch := 7#5, initDone := false } }

/-- InitializeActsOnce, each clause. -/
theorem witness_initialize :
    (s0 .aux).pins.initDone = true ∧
    ((uninitialized .direct).pins.initDone = false ∧ (uninitialized .direct).cfg.oeMode = .direct) ∧
    ((uninitialized .aux).pins.initDone = false ∧ (uninitialized .aux).cfg.oeMode = .aux) := by decide

/-- PowerOnValues: the enable mode of the machine is open, so one of its two clauses applies, and it cannot be
known which. -/
theorem witness_power_on_mode : State.reset.cfg.oeMode = .direct ∨ State.reset.cfg.oeMode = .aux := by
  cases State.reset.cfg.oeMode with
  | aux => exact .inr rfl
  | direct => exact .inl rfl

/-- A machine whose next turn is a given one. -/
def given (t : Turn) (s : State) : State := { s with env := { s.env with turns := [t] } }

/-- A machine that resets on unmount and suspend too. -/
def resetting : State := { s0 .aux with cfg := { config .aux with resetOnUnmountSuspend := true } }

/-- LifecycleEventsRunReset, each clause. -/
theorem witness_lifecycle :
    nextTurn (given (.event .resume) (s0 .aux)).env = .event .resume ∧
    (nextTurn (given (.event .suspend) resetting).env = .event .suspend ∧
      (given (.event .suspend) resetting).cfg.resetOnUnmountSuspend = true) ∧
    (nextTurn (given (.event .unmount) (s0 .aux)).env = .event .unmount ∧
      (given (.event .unmount) (s0 .aux)).cfg.resetOnUnmountSuspend = false) := by decide

/-- EventsAndTheFlushCommute. -/
theorem witness_events_and_the_flush_commute :
    ∃ t, tickEnd (withTime 0 11 (atPhase .flushing [.core] 3 (s0 .aux))) = .next t := ⟨_, rfl⟩

/-- OnlyBytesAndResetsMoveTheEngine: a byte that moves it, and an event that moves it. -/
theorem witness_engine_moves :
    (∃ t, step (withByte 0x85#8 (s0 .aux)) = .next t ∧ t.engine ≠ (withByte 0x85#8 (s0 .aux)).engine) ∧
    (∃ t, step (given (.event .mount) (engineAt .aux (.shiftActive 5#6 false) true 0#5 [])) = .next t ∧
      t.engine ≠ (given (.event .mount) (engineAt .aux (.shiftActive 5#6 false) true 0#5 [])).engine) :=
  ⟨⟨_, rfl, by decide⟩, ⟨_, rfl, by decide⟩⟩

/-- InactiveLinkDropsPendingOutput. -/
theorem witness_inactive_link :
    let s := linkDown (atPhase .betweenTicks [.core] 5 (s0 .aux))
    nextTurn s.env = .core ∧ s.transport.phase = .betweenTicks ∧ s.env.linkActive = false := ⟨rfl, rfl, rfl⟩

/-- ChunkBoundariesMakeNoDifference, at the gate and with a full chunk, and its clause about the end of the tick. -/
theorem witness_chunk_boundaries :
    (Inv (atPhase .betweenTicks [.core] 64 (s0 .aux)) ∧
      (atPhase .betweenTicks [.core] 64 (s0 .aux)).transport.phase = .betweenTicks ∧
      (atPhase .betweenTicks [.core] 64 (s0 .aux)).transport.accLen ≤ 64 ∧ 63 + 1 ≤ 64) ∧
    ∃ u, tickEnd (atPhase .flushing [.core] 64 (s0 .aux)) = .next u :=
  ⟨⟨atPhase_inv .aux .betweenTicks [.core] 64 (.inl (by decide)), rfl, Nat.le_refl 64, by decide⟩, ⟨_, rfl⟩⟩

/-- TickReadsOneChunkInOrderOrNothing: at the gate, with a draw that is in range at both ends; and the guard false
on either side, with an empty FIFO and with one byte more than the gate. -/
theorem witness_tick_reads :
    (let s := withRx [0x40#8] { atPhase .betweenTicks [.core] 64 (s0 .aux) with
       env := { (atPhase .betweenTicks [.core] 64 (s0 .aux)).env with rxTake := 1 } }
     nextTurn s.env = .core ∧ s.transport.phase = .betweenTicks ∧ s.env.linkActive = true ∧ s.env.rxq ≠ [] ∧
     s.transport.accLen ≤ 64 ∧ 1 ≤ s.env.rxTake ∧ s.env.rxTake ≤ 64 ∧ s.env.rxTake ≤ s.env.rxq.length) ∧
    (let s := atPhase .betweenTicks [.core] 0 (s0 .aux)
     nextTurn s.env = .core ∧ s.transport.phase = .betweenTicks ∧ s.env.linkActive = true ∧ s.env.rxq = []) ∧
    (let s := withRx [0x40#8] (atPhase .betweenTicks [.core] 65 (s0 .aux))
     nextTurn s.env = .core ∧ s.transport.phase = .betweenTicks ∧ s.env.linkActive = true ∧
     64 < s.transport.accLen) := by
  decide

/-- EnvironmentTurnsChangeTheirOwnField, each clause. -/
theorem witness_environment_turns :
    nextTurn (given (.link true) (s0 .aux)).env = .link true ∧
    nextTurn (given (.ready true) (s0 .aux)).env = .ready true ∧
    nextTurn (given (.receive 3) (s0 .aux)).env = .receive 3 ∧
    nextTurn (given (.elapse 11) (s0 .aux)).env = .elapse 11 := ⟨rfl, rfl, rfl, rfl⟩

/-- TimeNeverDecreases, with a step that moves the timer. -/
theorem witness_time :
    ∃ t, step (given (.elapse 11) (s0 .aux)) = .next t ∧ t.env.now ≠ (given (.elapse 11) (s0 .aux)).env.now :=
  ⟨_, rfl, by decide⟩

/-- TrackedRemainingIsTheEngines: every instruction, an empty burst and the longest, the last data byte and the
first of the longest. -/
theorem witness_tracked_remaining :
    (EngineOk (s0 .aux) ∧ (Instr.bitbang true true 31#5).legalIn (s0 .aux).engine.mode = true ∧
      (Instr.shift true 0#6).legalIn (s0 .aux).engine.mode = true ∧
      (Instr.shift false 63#6).legalIn (s0 .aux).engine.mode = true) ∧
    (EngineOk (engineAt .aux (.shiftActive 1#6 true) true 0#5 []) ∧
      (Instr.data 0x80#8).legalIn (engineAt .aux (.shiftActive 1#6 true) true 0#5 []).engine.mode = true) ∧
    (EngineOk (engineAt .aux (.shiftActive 63#6 true) true 0#5 []) ∧
      (Instr.data 0x80#8).legalIn (engineAt .aux (.shiftActive 63#6 true) true 0#5 []).engine.mode = true) :=
  ⟨⟨trivial, rfl, rfl, rfl⟩, ⟨(by decide : (1#6 : BurstLen) ≠ 0#6), rfl⟩,
   ⟨(by decide : (63#6 : BurstLen) ≠ 0#6), rfl⟩⟩

/-- BackpressureStopsInboundReads, just above the gate. -/
theorem witness_backpressure :
    ∃ t, Inv (atPhase .betweenTicks [.core] 65 (s0 .aux)) ∧
      64 < (atPhase .betweenTicks [.core] 65 (s0 .aux)).transport.accLen ∧
      step (atPhase .betweenTicks [.core] 65 (s0 .aux)) = .next t :=
  ⟨_, atPhase_inv .aux .betweenTicks [.core] 65 (.inr ⟨by decide, by decide⟩), by decide, rfl⟩

/-- OutputEntersTheAccumulatorInOrder, from the gate, with as many output bytes as one call can leave. -/
def fullCall : State :=
  { atPhase .processing [.core] 64 (s0 .aux) with
    transport := { (atPhase .processing [.core] 64 (s0 .aux)).transport with out := List.replicate 64 0xEE#8 } }

theorem fullCall_inv : Inv fullCall where
  cfg := rfl
  engine := trivial
  gate := ⟨rfl, rfl, rfl⟩
  accFilled := filled_ok 64
  accBounded := by show 64 ≤ 64 + 64; decide
  phase := ⟨Nat.le_refl 64, Nat.le_refl 64⟩
  frames := fun _ h => nomatch h
  rx := Nat.zero_le _
  flushTime := Nat.le_refl 0

theorem witness_output_enters :
    Inv fullCall ∧ nextTurn fullCall.env = .core ∧ fullCall.transport.phase = .processing ∧
    fullCall.transport.chunk = [] := ⟨fullCall_inv, rfl, rfl, rfl⟩

/-- FlushIsDueBySizeOrByTime: an unbounded timer, and one of 32 bits across its wrap (V45). -/
theorem witness_flush_is_due :
    (s0 .aux).cfg.timerBits = none ∧
    (let s := { withTime (2 ^ 32 - 5) (2 ^ 32 + 6) (s0 .aux) with cfg := { config .aux with timerBits := some 32 } }
     s.cfg.timerBits = some 32 ∧ s.transport.lastFlush = (2 ^ 32 - 5) % 2 ^ 32 ∧ 2 ^ 32 - 5 ≤ s.env.now ∧
     s.env.now - (2 ^ 32 - 5) < 2 ^ 32) := by decide

/-- ElapsedTimeIsRightAcrossAWrap: the readings of V45, on both sides of the wrap. -/
theorem witness_elapsed :
    ({ config .aux with timerBits := some 32 } : Config).timerBits = some 32 ∧ 2 ^ 32 - 5 ≤ 2 ^ 32 + 6 ∧
    (2 ^ 32 + 6) - (2 ^ 32 - 5) < 2 ^ 32 := by decide

/-- FlushSendsTheOldestBytes and BacklogSendsFullFrames: just enough for a full frame, and the most there can be. -/
theorem witness_flush :
    (Inv (atPhase .flushing [.core] 62 (s0 .aux)) ∧
      flushDue (timerRead (atPhase .flushing [.core] 62 (s0 .aux))) (atPhase .flushing [.core] 62 (s0 .aux)) = true) ∧
    (Inv (atPhase .flushing [.core] 128 (s0 .direct)) ∧
      flushDue (timerRead (atPhase .flushing [.core] 128 (s0 .direct))) (atPhase .flushing [.core] 128 (s0 .direct)) =
        true) ∧
    nextTurn (atPhase .flushing [.core] 62 (s0 .aux)).env = .core ∧
    (atPhase .flushing [.core] 62 (s0 .aux)).transport.phase = .flushing ∧
    62 ≤ (atPhase .flushing [.core] 62 (s0 .aux)).transport.accLen ∧
    (atPhase .flushing [.core] 62 (s0 .aux)).env.txReady = true :=
  ⟨⟨atPhase_inv .aux .flushing [.core] 62 (.inl (by decide)), rfl⟩,
   ⟨atPhase_inv .direct .flushing [.core] 128 (.inr ⟨by decide, by decide⟩), rfl⟩, rfl, rfl, Nat.le_refl 62, rfl⟩

/-- The outbound channel not ready. -/
def notReady (s : State) : State := { s with env := { s.env with txReady := false } }

/-- TickWithoutAFlushChangesNothing: not due by either bound (V39, V37), and due with the channel not ready. -/
theorem witness_no_flush :
    (let s := withTime 11 21 (atPhase .flushing [.core] 61 (s0 .aux))
     nextTurn s.env = .core ∧ s.transport.phase = .flushing ∧ flushDue (timerRead s) s = false) ∧
    (let s := notReady (atPhase .flushing [.core] 62 (s0 .aux))
     nextTurn s.env = .core ∧ s.transport.phase = .flushing ∧ s.env.txReady = false) :=
  ⟨⟨rfl, rfl, rfl⟩, ⟨rfl, rfl, rfl⟩⟩

/-- DueFlushStaysDue. -/
theorem witness_due_flush_stays_due :
    let s := notReady (withTime 0 11 (atPhase .flushing [.core] 3 (s0 .aux)))
    ∃ t, s.cfg.timerBits = none ∧ flushDue (timerRead s) s = true ∧ step s = .next t ∧
      t.logs.txlog = s.logs.txlog ∧ ¬ dropsOutput s :=
  ⟨_, rfl, rfl, rfl, rfl, fun h => nomatch h.2.1⟩

/-- IdleFlushSendsTheHeaderAlone (V43). -/
theorem witness_idle_flush :
    let s := withTime 30 41 (atPhase .flushing [.core] 0 (s0 .aux))
    nextTurn s.env = .core ∧ s.transport.phase = .flushing ∧ s.transport.accLen = 0 ∧
    10 < elapsed s.cfg (timerRead s) s.transport.lastFlush ∧ s.env.txReady = true := by decide

/-- HostAppendsWhileThereIsRoom: one place left, and full. -/
theorem witness_host_appends :
    (nextTurn (given (.rx 0x40#8) (withRx (List.replicate 63 0#8) (s0 .aux))).env = .rx 0x40#8 ∧
      (withRx (List.replicate 63 0#8) (s0 .aux)).env.rxq.length < (s0 .aux).cfg.rxFifoCap) ∧
    (nextTurn (given (.rx 0x40#8) (withRx (List.replicate 64 0#8) (s0 .aux))).env = .rx 0x40#8 ∧
      (s0 .aux).cfg.rxFifoCap ≤ (withRx (List.replicate 64 0#8) (s0 .aux)).env.rxq.length) :=
  ⟨⟨rfl, Nat.le_refl 64⟩, ⟨rfl, Nat.le_refl 64⟩⟩

/-- AccumulatorAccessesAreBounded, at each bound. -/
theorem witness_accumulator_bounds :
    127 < (s0 .aux).cfg.accCap ∧ (s0 .aux).cfg.accCap ≤ 128 ∧
    (AccFilled (atPhase .flushing [.core] 5 (s0 .aux)) ∧
      2 + 3 ≤ (atPhase .flushing [.core] 5 (s0 .aux)).transport.accLen ∧
      (Memory.read? (atPhase .flushing [.core] 5 (s0 .aux)).transport.acc (2 + 2)).isSome) ∧
    (atPhase .flushing [.core] 5 (s0 .aux)).transport.accLen < 3 + 3 :=
  ⟨by decide, by decide, ⟨filled_ok 5, by decide, by decide⟩, by decide⟩

/-- OutputIsNeverLostOrReordered: the step that sends a frame. -/
theorem witness_output_is_never_lost :
    ∃ t, Inv (atPhase .flushing [.core] 62 (s0 .aux)) ∧ step (atPhase .flushing [.core] 62 (s0 .aux)) = .next t ∧
      ¬ dropsOutput (atPhase .flushing [.core] 62 (s0 .aux)) :=
  ⟨_, atPhase_inv .aux .flushing [.core] 62 (.inl (by decide)), rfl, fun h => nomatch h.2.1⟩

/-- InboundBytesAreNeverDropped, LogsAreAppendOnly, ConfigurationAndGuardNeverChange, EveryStepKeepsTheInvariant, and
the second clause of CursorCountsEngineBytes. -/
theorem witness_core_step :
    ∃ t, Inv (atPhase .betweenTicks [.core] 3 (s0 .aux)) ∧
      nextTurn (atPhase .betweenTicks [.core] 3 (s0 .aux)).env = .core ∧
      step (atPhase .betweenTicks [.core] 3 (s0 .aux)) = .next t ∧
      ¬ (nextTurn (atPhase .betweenTicks [.core] 3 (s0 .aux)).env = .core ∧
        (atPhase .betweenTicks [.core] 3 (s0 .aux)).transport.phase = .processing ∧
        (atPhase .betweenTicks [.core] 3 (s0 .aux)).transport.chunk ≠ []) :=
  ⟨_, atPhase_inv .aux .betweenTicks [.core] 3 (.inl (by decide)), rfl, rfl, fun h => nomatch h.2.1⟩

/-- The first clause of CursorCountsEngineBytes. -/
theorem witness_cursor :
    ∃ t, step (withByte 0x85#8 (s0 .aux)) = .next t ∧
      (nextTurn (withByte 0x85#8 (s0 .aux)).env = .core ∧
        (withByte 0x85#8 (s0 .aux)).transport.phase = .processing ∧ (withByte 0x85#8 (s0 .aux)).transport.chunk ≠ []) :=
  ⟨_, rfl, by decide⟩

/-- CoreStepsMakeUpTheServiceTick: a tick that reads two bytes, in five core steps. -/
theorem witness_service_tick :
    let s := withRx [0x85#8, 0x11#8] (atPhase .betweenTicks [.core, .core, .core, .core, .core] 0 (s0 .aux))
    s.transport.phase = .betweenTicks ∧ tickSteps s = 5 ∧
    s.env.turns = List.replicate (tickSteps s) .core ++ [] := by decide

/-- NoStepIsRefusedAndOnlyOverflowFaults: one output byte against an accumulator with room for none (I14). -/
theorem witness_overflow :
    let s := { atPhase .processing [.core] 4 (s0 .direct) with cfg := { config .direct with accCap := 4 } }
    let s := emit 0#8 s
    (nextTurn s.env = .core ∧ s.transport.phase = .processing ∧ s.transport.chunk = [] ∧ s.transport.out ≠ [] ∧
      s.cfg.accCap < s.transport.accLen + s.transport.out.length) ∧
    step s = .fault .accOverflow := ⟨by decide, rfl⟩

end Sys2Proof.Tests
end

section
/-! PROOF. The obligations about the state: the rules each move of an agent follows, and from them the step lemmas
(spec/10_state.md, with the parts of spec/20, spec/41, spec/42, spec/60 and spec/70 that write the state). -/

namespace Sys2Proof.Machine

/-! ### The output enable's gate -/

theorem gateOk_direct_iff {s : State} (h : s.cfg.oeMode = .direct) :
    GateOk s ↔ s.pins.initDone = true ∧ s.pins.dir = s.pins.oe := by
  simp [GateOk, h]

theorem gateOk_aux_iff {s : State} (h : s.cfg.oeMode = .aux) :
    GateOk s ↔ s.pins.initDone = true ∧ s.pins.dir = true ∧ s.pins.auxLevel = auxLevelFor s.cfg s.pins.oe := by
  simp [GateOk, h]

theorem auxLevelFor_eq_active_iff (c : Config) (e : Bool) : auxLevelFor c e = c.auxActive ↔ e = true := by
  cases e <;> simp [auxLevelFor]

/-- Behind a good gate the writable signals drive the bus exactly while `oe` is 1 (R23). -/
theorem drives_of_gateOk {s : State} (h : GateOk s) : drives s = s.pins.oe := by
  cases hm : s.cfg.oeMode with
  | aux =>
    obtain ⟨-, -, haux⟩ := (gateOk_aux_iff hm).1 h
    simp [drives, hm, haux, auxLevelFor_eq_active_iff]
  | direct =>
    obtain ⟨-, hdir⟩ := (gateOk_direct_iff hm).1 h
    simp [drives, hm, hdir]

/-- A state whose pins are those setOutputEnable leaves has a good gate again (R74). -/
theorem gateOk_of_outputEnable {s t : State} (e : Bool) (h : GateOk s) (hcfg : t.cfg = s.cfg)
    (hinit : t.pins.initDone = s.pins.initDone) (hoe : t.pins.oe = e)
    (hdir : t.pins.dir = dirAfter s.cfg s.pins e) (haux : t.pins.auxLevel = auxAfter s.cfg s.pins e) :
    GateOk t := by
  cases hm : s.cfg.oeMode with
  | aux =>
    obtain ⟨hi, hd, ha⟩ := (gateOk_aux_iff hm).1 h
    refine (gateOk_aux_iff (hcfg ▸ hm)).2 ⟨hinit.trans hi, ?_, ?_⟩
    · simp [hdir, dirAfter, hm, hd]
    · by_cases he : e = s.pins.oe <;> simp [haux, auxAfter, hm, hoe, hcfg, he, ha, auxLevelFor]
  | direct =>
    obtain ⟨hi, hd⟩ := (gateOk_direct_iff hm).1 h
    refine (gateOk_direct_iff (hcfg ▸ hm)).2 ⟨hinit.trans hi, ?_⟩
    by_cases he : e = s.pins.oe <;> simp [hdir, dirAfter, hm, hoe, he, hd]

/-! ### Legal engine states -/

theorem engineOk_of_idle {s : State} (h : s.engine = .idle) : EngineOk s := by
  simp [EngineOk, h]

theorem engineOk_shiftActive_iff {s : State} {k : BurstLen} {c : Bool} (h : s.engine = .shiftActive k c) :
    EngineOk s ↔ k ≠ 0#6 := by
  simp [EngineOk, h]

/-- A header leaves a legal engine state: an empty burst leaves Idle, another one has bytes due (R64, R85). -/
theorem engineOk_of_afterShift {s t : State} {c : Bool} {n : BurstLen} (hs : s.engine = .idle)
    (ht : t.engine = afterShift s.engine c n) : EngineOk t := by
  by_cases hn : n = 0#6
  · exact engineOk_of_idle (by rw [ht, afterShift, if_pos hn, hs])
  · exact (engineOk_shiftActive_iff (by rw [ht, afterShift, if_neg hn])).2 hn

/-- A data byte leaves a legal engine state: the last one of a burst ends it (R84). -/
theorem engineOk_of_afterData {t : State} {c : Bool} {k : BurstLen} (ht : t.engine = afterData k c) :
    EngineOk t := by
  by_cases hk : k = 1#6
  · exact engineOk_of_idle (by rw [ht, afterData, if_pos hk])
  · exact (engineOk_shiftActive_iff (by rw [ht, afterData, if_neg hk])).2 (sub_ne_zero.2 hk)

/-! ### The transient state of a tick -/

theorem phaseOk_processing_iff {s : State} (h : s.transport.phase = .processing) :
    PhaseOk s ↔ s.transport.accLen ≤ readGate ∧
      s.transport.out.length + s.transport.chunk.length ≤ chunkMax := by
  simp [PhaseOk, h]

theorem phaseOk_outside_iff {s : State} (h : s.transport.phase ≠ .processing) :
    PhaseOk s ↔ s.transport.chunk = [] ∧ s.transport.out = [] := by
  cases hp : s.transport.phase <;> simp_all [PhaseOk]

/-- A byte leaves the chunk and adds at most one output byte, so the call keeps its bound (R80). -/
theorem phaseOk_of_byte {s t : State} {b : Byte} {bs outs : List Byte} (h : PhaseOk s)
    (hp : s.transport.phase = .processing) (hc : s.transport.chunk = b :: bs) (hl : outs.length ≤ 1)
    (ht : t.transport = { s.transport with chunk := bs, out := s.transport.out ++ outs }) : PhaseOk t := by
  obtain ⟨hacc, hlen⟩ := (phaseOk_processing_iff hp).1 h
  refine (phaseOk_processing_iff (by rw [ht]; exact hp)).2 ?_
  rw [hc, List.length_cons] at hlen
  simp only [ht, List.length_append]
  omega

/-! ### The flush -/

/-- A reading of the timer is a legal flush time (R92). -/
theorem flushTimeOk_of_timerRead {s t : State} (hcfg : t.cfg = s.cfg) (hnow : t.env.now = s.env.now)
    (hlast : t.transport.lastFlush = timerRead s) : FlushTimeOk t := by
  unfold FlushTimeOk
  rw [hcfg, hlast, timerRead, hnow]
  cases s.cfg.timerBits with
  | none => exact Nat.le_refl _
  | some w => exact Nat.mod_lt _ (Nat.two_pow_pos w)

/-- What a flush reads is the payload of a well-formed frame (R98). -/
theorem frameOk_flush (s : State) : FrameOk s.cfg (frame s.cfg (accRead 0 (payloadLen s) s)) :=
  ⟨_, rfl, by rw [accRead, Memory.length_readN]; exact Nat.min_le_right _ _⟩

/-! ### Each move keeps the invariant

A move names only the parts of the invariant whose fields it writes; the others carry over. -/

theorem inv_takeTurn {s : State} (h : Inv s) : Inv (takeTurn s) := { h with }

theorem inv_setLink {s : State} (up : Bool) (h : Inv s) : Inv (setLink up s) := { h with }

theorem inv_setReady {s : State} (r : Bool) (h : Inv s) : Inv (setReady r s) := { h with }

theorem inv_setReceive {s : State} (k : Nat) (h : Inv s) : Inv (setReceive k s) := { h with }

theorem inv_elapse {s : State} (ms : Nat) (h : Inv s) : Inv (elapse ms s) :=
  { h with
    flushTime := by
      have ht := h.flushTime
      unfold FlushTimeOk at ht ⊢
      cases hw : s.cfg.timerBits with
      | none =>
        simp only [hw, elapse_cfg, elapse_transport, elapse_now] at ht ⊢
        omega
      | some w => simpa [hw] using ht }

theorem inv_hostSend {s : State} (b : Byte) (h : Inv s) : Inv (hostSend b s) := by
  obtain ⟨hroom, heq⟩ | ⟨-, heq⟩ := hostSend_cases b s <;> rw [heq]
  · exact { h with rx := by simpa [RxBounded] using hroom }
  · exact h

theorem inv_engineReset {s : State} (h : Inv s) : Inv (engineReset s) := by
  rw [engineReset_state]
  exact
    { h with
      engine := engineOk_of_idle rfl
      gate := gateOk_of_outputEnable false h.gate rfl rfl rfl rfl rfl }

theorem inv_takeEvent {s : State} (e : Lifecycle) (h : Inv s) : Inv (takeEvent e s) := by
  obtain ⟨-, heq⟩ | ⟨-, heq⟩ := takeEvent_cases e s <;> rw [heq]
  · exact inv_engineReset h
  · exact h

/-- The beginning of a tick (R91): a read opens a call within its bounds, and a drop empties the accumulator. -/
theorem inv_tickBegin {s : State} (h : Inv s) (hp : s.transport.phase = .betweenTicks) : Inv (tickBegin s) := by
  have hempty := (phaseOk_outside_iff (by rw [hp]; decide)).1 h.phase
  obtain ⟨-, hrx, hacc, heq⟩ | ⟨-, -, heq⟩ | ⟨-, heq⟩ := tickBegin_cases s <;> rw [heq]
  · obtain ⟨-, hsize, -⟩ := chunkSize_range hrx
    exact
      { h with
        phase := (phaseOk_processing_iff rfl).2 ⟨hacc, by simp; omega⟩
        rx := by
          have := h.rx
          simp only [RxBounded, readChunk_rxq, List.length_drop, readChunk_cfg] at this ⊢
          omega }
  · exact { h with phase := (phaseOk_outside_iff (by simp)).2 hempty }
  · exact
      { h with
        accFilled := rfl
        accBounded := Nat.zero_le _
        phase := (phaseOk_outside_iff (by simp [hp])).2 hempty }

/-- One byte of a call (R83): one case for each instruction the decoder can give. -/
theorem inv_engineByte {s t : State} {b : Byte} {bs : List Byte} (h : Inv s)
    (hp : s.transport.phase = .processing) (hc : s.transport.chunk = b :: bs)
    (ht : engineByte b (setChunk bs s) = .next t) : Inv t := by
  obtain ⟨r, o, p, -, -, heq⟩ | ⟨c, n, hidle, -, heq⟩ | ⟨k, c, -, heq⟩ := engineByte_cases b (setChunk bs s) <;>
    cases heq.symm.trans ht
  case inl =>
    exact
      { h with
        gate := gateOk_of_outputEnable o h.gate rfl rfl rfl rfl rfl
        phase := phaseOk_of_byte h.phase hp hc (by split <;> simp) rfl }
  case inr.inl =>
    exact
      { h with
        engine := engineOk_of_afterShift hidle rfl
        phase := phaseOk_of_byte h.phase hp hc (outs := []) (Nat.zero_le 1)
          (by simp [afterShiftHeader, setChunk]) }
  case inr.inr =>
    exact
      { h with
        engine := engineOk_of_afterData rfl
        phase := phaseOk_of_byte h.phase hp hc (by split <;> simp) rfl }

/-- The end of a call (R91, R93): the accumulator has room for the output, since the read began at the gate. -/
theorem inv_processEnd {s t : State} (h : Inv s) (hp : s.transport.phase = .processing)
    (hc : s.transport.chunk = []) (ht : processEnd s = .next t) : Inv t := by
  obtain ⟨hacc, hout⟩ := (phaseOk_processing_iff hp).1 h.phase
  have hbound : s.transport.accLen + s.transport.out.length ≤ readGate + chunkMax := by omega
  obtain ⟨-, -, hcap⟩ := (config_wf_iff _).1 h.cfg
  obtain ⟨m, heq, hfilled, -⟩ := processEnd_filled h.accFilled (hbound.trans hcap)
  cases heq.symm.trans ht
  exact
    { h with
      accFilled := hfilled
      accBounded := hbound
      phase := (phaseOk_outside_iff (by simp)).2 ⟨hc, rfl⟩ }

/-- The end of a tick (R95 to R98): it sends nothing, or one well-formed frame. -/
theorem inv_tickEnd {s t : State} (h : Inv s) (hp : s.transport.phase = .flushing)
    (ht : tickEnd s = .next t) : Inv t := by
  have hempty := (phaseOk_outside_iff (by rw [hp]; decide)).1 h.phase
  obtain ⟨-, heq⟩ | ⟨-, heq⟩ := tickEnd_cases s <;> cases heq.symm.trans ht
  · exact { h with phase := (phaseOk_outside_iff (by simp)).2 hempty }
  · exact
      { h with
        accFilled := Memory.filled_dropFront h.accFilled (payloadLen_le s)
        accBounded := (Nat.sub_le _ _).trans h.accBounded
        phase := (phaseOk_outside_iff (by simp)).2 hempty
        frames := List.forall_mem_append.2 ⟨h.frames, List.forall_mem_singleton.2 (frameOk_flush s)⟩
        flushTime := flushTimeOk_of_timerRead rfl rfl rfl }

theorem inv_coreStep {s t : State} (h : Inv s) (ht : coreStep s = .next t) : Inv t := by
  obtain ⟨hp, heq⟩ | ⟨b, bs, hp, hc, heq⟩ | ⟨hp, hc, heq⟩ | ⟨hp, heq⟩ := coreStep_cases s <;> rw [heq] at ht
  · cases ht; exact inv_tickBegin h hp
  · exact inv_engineByte h hp hc ht
  · exact inv_processEnd h hp hc ht
  · exact inv_tickEnd h hp ht

/-- One move of any agent (R11). -/
theorem inv_runTurn {m : Turn} {s t : State} (h : Inv s) (ht : runTurn m s = .next t) : Inv t := by
  cases m with
  | core => exact inv_coreStep h ht
  | event e => cases ht; exact inv_takeEvent e h
  | rx b => cases ht; exact inv_hostSend b h
  | link up => cases ht; exact inv_setLink up h
  | ready r => cases ht; exact inv_setReady r h
  | receive k => cases ht; exact inv_setReceive k h
  | elapse ms => cases ht; exact inv_elapse ms h

/-- Settles O58: taking the turn keeps the invariant, and so does the move of whichever agent has it. -/
theorem everyStepKeepsTheInvariant : Obligations.EveryStepKeepsTheInvariant :=
  fun _ _ h ht => inv_runTurn (inv_takeTurn h) ht

/-- Settles O25: behind the gate that the invariant keeps, the bus is driven exactly while `oe` is 1. -/
theorem busShowsTheLatchExactlyWhenEnabled : Obligations.BusShowsTheLatchExactlyWhenEnabled := by
  intro s h i
  rw [bus, drives_of_gateOk h.gate]

/-! ### What every move keeps: the configuration, the guard, both logs and the cursor -/

/-- From `s` to `t` the configuration and the guard stay, both logs only grow at their end, and the cursor passes
`n` bytes (R12, R18, R24, R31). -/
structure Extends (n : Nat) (s t : State) : Prop where
  cfg : t.cfg = s.cfg
  initDone : t.pins.initDone = s.pins.initDone
  trace : s.logs.trace <+: t.logs.trace
  txlog : s.logs.txlog <+: t.logs.txlog
  consumed : t.logs.consumed = s.logs.consumed + n

/-- A move that leaves the logs and the cursor alone. -/
theorem extends_of_logs_eq {s t : State} (hcfg : t.cfg = s.cfg) (hinit : t.pins.initDone = s.pins.initDone)
    (hlogs : t.logs = s.logs) : Extends 0 s t :=
  ⟨hcfg, hinit, by rw [hlogs], by rw [hlogs], by rw [hlogs]; rfl⟩

theorem extends_tickBegin (s : State) : Extends 0 s (tickBegin s) := by
  obtain ⟨-, -, -, heq⟩ | ⟨-, -, heq⟩ | ⟨-, heq⟩ := tickBegin_cases s <;> rw [heq] <;>
    exact extends_of_logs_eq rfl rfl rfl

theorem extends_engineByte {s t : State} {b : Byte} (ht : engineByte b s = .next t) : Extends 1 s t := by
  obtain ⟨r, o, p, -, -, heq⟩ | ⟨c, n, -, -, heq⟩ | ⟨k, c, -, heq⟩ := engineByte_cases b s <;>
    cases heq.symm.trans ht
  case inl => exact ⟨rfl, rfl, ⟨_, (List.append_assoc ..).symm⟩, List.prefix_rfl, rfl⟩
  case inr.inl => exact ⟨rfl, rfl, List.prefix_append _ _, List.prefix_rfl, rfl⟩
  case inr.inr => exact ⟨rfl, rfl, List.prefix_append _ _, List.prefix_rfl, rfl⟩

theorem extends_processEnd {s t : State} (ht : processEnd s = .next t) : Extends 0 s t := by
  rw [processEnd] at ht
  obtain ⟨-, m, heq⟩ | ⟨-, -, heq⟩ := appendBytes_cases s.transport.out s <;> rw [heq] at ht <;> cases ht
  exact extends_of_logs_eq rfl rfl rfl

theorem extends_tickEnd {s t : State} (ht : tickEnd s = .next t) : Extends 0 s t := by
  obtain ⟨-, heq⟩ | ⟨-, heq⟩ := tickEnd_cases s <;> cases heq.symm.trans ht
  · exact extends_of_logs_eq rfl rfl rfl
  · exact ⟨rfl, rfl, List.prefix_rfl, List.prefix_append _ _, rfl⟩

theorem extends_takeEvent (e : Lifecycle) (s : State) : Extends 0 s (takeEvent e s) := by
  obtain ⟨-, heq⟩ | ⟨-, heq⟩ := takeEvent_cases e s <;> rw [heq]
  · rw [engineReset_state]
    exact ⟨rfl, rfl, ⟨_, (List.append_assoc ..).symm⟩, List.prefix_rfl, rfl⟩
  · exact extends_of_logs_eq rfl rfl rfl

theorem extends_hostSend (b : Byte) (s : State) : Extends 0 s (hostSend b s) := by
  obtain ⟨-, heq⟩ | ⟨-, heq⟩ := hostSend_cases b s <;> rw [heq] <;> exact extends_of_logs_eq rfl rfl rfl

/-- The core loop has the turn and a byte to interpret (R81, R83). -/
abbrev RunsByte (s : State) : Prop :=
  nextTurn s.env = .core ∧ s.transport.phase = .processing ∧ s.transport.chunk ≠ []

/-- Whose turn it is decides the step (R11). -/
theorem step_of_turn {s : State} {t : Turn} (h : nextTurn s.env = t) : step s = runTurn t (takeTurn s) := by
  rw [step, h]

/-- A core step: only the one that interprets a byte moves the cursor (R18). -/
theorem extends_coreStep {s t : State} (ht : coreStep s = .next t) :
    Extends (if s.transport.phase = .processing ∧ s.transport.chunk ≠ [] then 1 else 0) s t := by
  obtain ⟨hp, heq⟩ | ⟨b, bs, hp, hc, heq⟩ | ⟨-, hc, heq⟩ | ⟨hp, heq⟩ := coreStep_cases s <;> rw [heq] at ht
  · rw [if_neg (by simp [hp])]
    cases ht
    exact extends_tickBegin s
  · rw [if_pos ⟨hp, by simp [hc]⟩]
    exact { extends_engineByte ht with }
  · rw [if_neg (by simp [hc])]
    exact extends_processEnd ht
  · rw [if_neg (by simp [hp])]
    exact extends_tickEnd ht

/-- A move of any agent but the core loop. -/
theorem extends_runTurn_of_ne_core {m : Turn} {s t : State} (hm : m ≠ .core) (ht : runTurn m s = .next t) :
    Extends 0 s t := by
  cases m with
  | core => exact absurd rfl hm
  | event e => cases ht; exact extends_takeEvent e s
  | rx b => cases ht; exact extends_hostSend b s
  | link _ | ready _ | receive _ | elapse _ => cases ht; exact extends_of_logs_eq rfl rfl rfl

/-- What every step keeps, said once for O53, O54 and O55. -/
theorem extends_step {s t : State} (ht : step s = .next t) : Extends (if RunsByte s then 1 else 0) s t := by
  by_cases hcore : nextTurn s.env = .core
  · rw [step_of_turn hcore] at ht
    simp only [RunsByte, hcore, true_and]
    exact { extends_coreStep ht with }
  · rw [if_neg fun hrun => hcore hrun.1]
    exact { extends_runTurn_of_ne_core hcore ht with }

/-- Settles O53: every move only appends to the two logs. -/
theorem logsAreAppendOnly : Obligations.LogsAreAppendOnly :=
  fun _ _ ht => ⟨(extends_step ht).trace, (extends_step ht).txlog⟩

/-- Settles O54: only an interpreted byte moves the cursor, by 1. -/
theorem cursorCountsEngineBytes : Obligations.CursorCountsEngineBytes := by
  intro s t ht
  have hcount := (extends_step ht).consumed
  exact ⟨fun hrun => by rwa [if_pos hrun] at hcount, fun hrun => by rwa [if_neg hrun] at hcount⟩

/-- Settles O55: no move writes either of them. -/
theorem configurationAndGuardNeverChange : Obligations.ConfigurationAndGuardNeverChange :=
  fun _ _ ht => ⟨(extends_step ht).cfg, (extends_step ht).initDone⟩

/-! ### Power-on -/

theorem gateOk_powerOn (c : Config) : GateOk (State.powerOn c) := by
  cases hm : c.oeMode with
  | aux => exact (gateOk_aux_iff hm).2 ⟨rfl, by simp [State.powerOn, hm], by simp [State.powerOn, auxLevelFor]⟩
  | direct => exact (gateOk_direct_iff hm).2 ⟨rfl, by simp [State.powerOn, hm]⟩

theorem flushTimeOk_powerOn (c : Config) : FlushTimeOk (State.powerOn c) := by
  cases hw : c.timerBits with
  | none => simp [FlushTimeOk, State.powerOn, hw]
  | some w => simp [FlushTimeOk, State.powerOn, hw]

theorem inv_powerOn {c : Config} (h : c.wf = true) : Inv (State.powerOn c) where
  cfg := h
  engine := engineOk_of_idle rfl
  gate := gateOk_powerOn c
  accFilled := rfl
  accBounded := Nat.zero_le _
  phase := (phaseOk_outside_iff (by simp [State.powerOn])).2 ⟨rfl, rfl⟩
  frames := List.forall_mem_nil _
  rx := Nat.zero_le _
  flushTime := flushTimeOk_powerOn c

/-- The auxiliary pin is outside the seven signal pins wherever it is counted from (R36). -/
theorem machineAuxPin_outside : Config.machineAuxPin < Config.machinePinBase ∨
    Config.machinePinBase + 7 ≤ Config.machineAuxPin := by
  unfold Config.machineAuxPin nOut nIn
  split <;> omega

theorem machine_wf : Config.machine.wf = true :=
  (config_wf_iff _).2 ⟨Nat.le_add_right _ _, machineAuxPin_outside, Nat.le_refl _⟩

/-- Settles O57: the machine's configuration is well-formed whatever its open parameters are. -/
theorem invariantHoldsAtPowerOn : Obligations.InvariantHoldsAtPowerOn := inv_powerOn machine_wf

/-- Settles O29: the direction and the enable pin by the gate at power-on, the other values as they are written. -/
theorem powerOnValues : Obligations.PowerOnValues := by
  have hgate : GateOk State.reset := gateOk_powerOn Config.machine
  refine ⟨rfl, rfl, rfl, fun hm => ?_, fun hm => ?_, rfl, rfl, rfl, fun _ => rfl, rfl, rfl, rfl⟩
  · exact ((gateOk_direct_iff hm).1 hgate).2
  · exact ((gateOk_aux_iff hm).1 hgate).2

/-- Settles O33: the output is off at power-on, so reset finds no change of `oe` and only writes the low levels. -/
theorem powerOnEqualsResetButForTheTrace : Obligations.PowerOnEqualsResetButForTheTrace := by
  intro c
  have hoff : setOutputEnable false (setEngine .idle (State.powerOn c)) = State.powerOn c :=
    setOutputEnable_same (State.powerOn c)
  rw [engineReset, hoff]
  simp [pinWrite, logEvent, maskAll, State.powerOn]

/-- Settles O27, by the two branches of the guard. -/
theorem initializeActsOnce : Obligations.InitializeActsOnce := by
  refine ⟨fun s hdone => ?_, fun s hdone => ?_⟩
  · rw [initializePins, if_pos hdone]
  · rw [initializePins, if_neg (by rw [hdone]; decide)]
    refine ⟨rfl, rfl, rfl, fun hm => ?_, fun hm => ?_, rfl⟩ <;> simp [hm]

/-! ### Turns of the environment, and DATA in Idle -/

/-- Settles O47, by the two branches of hostSend. -/
theorem hostAppendsWhileThereIsRoom : Obligations.HostAppendsWhileThereIsRoom := by
  intro s b h
  rw [step_of_turn h]
  exact ⟨fun hroom => congrArg _ (if_pos hroom), fun hfull => congrArg _ (if_neg (Nat.not_lt.2 hfull))⟩

/-- Settles O48: each turn's meaning is the write of its own field. -/
theorem environmentTurnsChangeTheirOwnField : Obligations.EnvironmentTurnsChangeTheirOwnField :=
  fun _ => ⟨fun _ h => step_of_turn h, fun _ h => step_of_turn h, fun _ h => step_of_turn h,
    fun _ h => step_of_turn h⟩

/-- Settles O11: in Idle there is no `remaining` and no `capture` to count with. -/
theorem dataOutsideABurstIsRefused : Obligations.DataOutsideABurstIsRefused :=
  fun _ _ h => execData_idle h

end Sys2Proof.Machine
end

section
/-! PROOF. The obligations about memory and the two byte streams: output bytes and inbound bytes on their way through
the accumulator and the frames (spec/20_memory.md R36, R40 to R52), and what a byte, a chunk boundary and a loopback
burst make of them. -/

namespace Sys2Proof.Machine

/-! ### The engine's runs -/

theorem engineByte_bitbang {b : Byte} {s : State} {r o : Bool} {p : Levels} (hs : s.engine = .idle)
    (hb : decode .idle b = .bitbang r o p) : engineByte b s = .next (countByte (afterBitbang r o p s)) := by
  rw [engineByte, hs, Engine.mode, hb, exec, execBitbang_eq, andThen_next]

theorem engineByte_shift {b : Byte} {s : State} {c : Bool} {n : BurstLen} (hs : s.engine = .idle)
    (hb : decode .idle b = .shift c n) : engineByte b s = .next (countByte (afterShiftHeader c n s)) := by
  rw [engineByte, hs, Engine.mode, hb, exec, execShift_eq, andThen_next]

theorem engineByte_data {b : Byte} {s : State} {k : BurstLen} {c : Bool} (hs : s.engine = .shiftActive k c) :
    engineByte b s = .next (countByte (afterDataByte b k c s)) := by
  rw [engineByte, hs, Engine.mode, decode, decodeData, exec, execData_eq hs, andThen_next]

theorem SameEngine.refl (s : State) : SameEngine s s := ⟨rfl, rfl, rfl, rfl, rfl, rfl, rfl⟩

theorem SameEngine.symm {s t : State} (h : SameEngine s t) : SameEngine t s :=
  ⟨h.cfg.symm, h.engine.symm, h.pins.symm, h.trace.symm, h.consumed.symm, h.answers.symm, h.answerNo.symm⟩

theorem SameEngine.trans {s t u : State} (h : SameEngine s t) (h' : SameEngine t u) : SameEngine s u :=
  ⟨h.cfg.trans h'.cfg, h.engine.trans h'.engine, h.pins.trans h'.pins, h.trace.trans h'.trace,
    h.consumed.trans h'.consumed, h.answers.trans h'.answers, h.answerNo.trans h'.answerNo⟩

theorem Emitted.trans {s t u : State} {as bs : List Byte} (h : Emitted s t as) (h' : Emitted t u bs) :
    Emitted s u (as ++ bs) :=
  ⟨h'.cfg.trans h.cfg, by rw [h'.transport, h.transport, List.append_assoc], h'.txlog.trans h.txlog,
    by rw [h'.env, h.env]⟩

theorem Emitted.unique {s t : State} {as bs : List Byte} (h : Emitted s t as) (h' : Emitted s t bs) : as = bs :=
  List.append_cancel_left (congrArg Transport.out (h.transport.symm.trans h'.transport))

/-- What a byte emits goes to the output list, and the rest of the Transport Adapter stays (R82). -/
theorem engineByte_emitted {b : Byte} {s t : State} (ht : engineByte b s = .next t) :
    ∃ outs, Emitted s t outs := by
  obtain ⟨u, -, outs, hu, -, -, hemit, -, -⟩ := engineByte_same b (SameEngine.refl s)
  cases hu.symm.trans ht
  exact ⟨outs, hemit⟩

theorem engineBytes_emitted (bs : List Byte) (s : State) :
    ∃ t outs, engineBytes bs s = .next t ∧ Emitted s t outs ∧ outs.length ≤ bs.length := by
  obtain ⟨t, -, outs, ht, -, -, hemit, -, hlen⟩ := engineBytes_same bs (SameEngine.refl s)
  exact ⟨t, outs, ht, hemit, hlen⟩

/-! ### The stream of output bytes -/

/-- The stream is made of the frames sent, the accumulator and the output list, and of nothing else (R41). -/
theorem outputStream_congr {s t : State} (htx : t.logs.txlog = s.logs.txlog)
    (hacc : t.transport.acc = s.transport.acc) (hout : t.transport.out = s.transport.out) :
    outputStream t = outputStream s := by
  rw [outputStream, outputStream, accBytes, accBytes, htx, hacc, hout]

/-- The engine's output goes to the end of the stream. -/
theorem outputStream_of_emitted {s t : State} {outs : List Byte} (h : Emitted s t outs) :
    outputStream t = outputStream s ++ outs := by
  simp [outputStream, accBytes, h.txlog, h.transport]

theorem payloadOf_frame (c : Config) (bs : List Byte) : payloadOf (frame c bs) = bs := rfl

theorem outputStream_tickBegin {s : State} (hlink : s.env.linkActive = true) (hout : s.transport.out = []) :
    outputStream (tickBegin s) = outputStream s := by
  obtain ⟨-, -, -, heq⟩ | ⟨-, -, heq⟩ | ⟨hdown, -⟩ := tickBegin_cases s
  · rw [heq]; exact outputStream_congr rfl rfl hout.symm
  · rw [heq]; exact outputStream_congr rfl rfl rfl
  · exact absurd (hlink.symm.trans hdown) (by decide)

/-- The end of `process` moves the output list behind the bytes that wait already (R91, R93). -/
theorem outputStream_processEnd {s t : State} (h : AccFilled s)
    (hcap : s.transport.accLen + s.transport.out.length ≤ s.cfg.accCap) (ht : processEnd s = .next t) :
    outputStream t = outputStream s := by
  obtain ⟨m, heq, -, hbytes⟩ := processEnd_filled h hcap
  cases heq.symm.trans ht
  simp [outputStream, accBytes, hbytes]

/-- A flush moves the oldest waiting bytes into the payload of the last frame (R96, R97). -/
theorem outputStream_tickEnd {s t : State} (h : AccFilled s) (ht : tickEnd s = .next t) :
    outputStream t = outputStream s := by
  obtain ⟨-, heq⟩ | ⟨-, heq⟩ := tickEnd_filled h <;> cases heq.symm.trans ht
  · exact outputStream_congr rfl rfl rfl
  · simp [outputStream, accBytes, payloadOf_frame, Memory.bytes_dropFront h]

/-- A reset is not the link-inactive drop: it leaves the stream alone (R121). -/
theorem outputStream_takeEvent (e : Lifecycle) (s : State) : outputStream (takeEvent e s) = outputStream s := by
  obtain ⟨-, heq⟩ | ⟨-, heq⟩ := takeEvent_cases e s <;> rw [heq]
  rw [engineReset_state]
  exact outputStream_congr rfl rfl rfl

theorem outputStream_hostSend (b : Byte) (s : State) : outputStream (hostSend b s) = outputStream s := by
  obtain ⟨-, heq⟩ | ⟨-, heq⟩ := hostSend_cases b s <;> rw [heq]
  exact outputStream_congr rfl rfl rfl

/-- The bounds of the invariant leave room for the output of a call (R99). -/
theorem room_of_inv {s : State} (h : Inv s) (hp : s.transport.phase = .processing) :
    s.transport.accLen + s.transport.out.length ≤ s.cfg.accCap := by
  obtain ⟨hacc, hlen⟩ := (phaseOk_processing_iff hp).1 h.phase
  obtain ⟨-, -, hcap⟩ := (config_wf_iff _).1 h.cfg
  simp only [readGate, chunkMax] at hacc hlen
  omega

theorem outputStream_coreStep {s t : State} (h : Inv s)
    (hkeep : ¬ (s.transport.phase = .betweenTicks ∧ s.env.linkActive = false)) (ht : coreStep s = .next t) :
    outputStream s <+: outputStream t := by
  obtain ⟨hp, heq⟩ | ⟨b, bs, -, -, heq⟩ | ⟨hp, -, heq⟩ | ⟨-, heq⟩ := coreStep_cases s <;> rw [heq] at ht
  · obtain ⟨-, hout⟩ := (phaseOk_outside_iff (by simp [hp])).1 h.phase
    have hlink : s.env.linkActive = true := by simpa [hp] using hkeep
    cases ht
    rw [outputStream_tickBegin hlink hout]
  · obtain ⟨outs, hemit⟩ := engineByte_emitted ht
    rw [outputStream_of_emitted hemit]
    exact List.prefix_append _ _
  · rw [outputStream_processEnd h.accFilled (room_of_inv h hp) ht]
  · rw [outputStream_tickEnd h.accFilled ht]

theorem outputStream_runTurn_of_ne_core {m : Turn} {s t : State} (hm : m ≠ .core) (ht : runTurn m s = .next t) :
    outputStream t = outputStream s := by
  cases m with
  | core => exact absurd rfl hm
  | event e => cases ht; exact outputStream_takeEvent e s
  | rx b => cases ht; exact outputStream_hostSend b s
  | link _ | ready _ | receive _ | elapse _ => cases ht; exact outputStream_congr rfl rfl rfl

/-- Settles O51: each core step but the drop moves bytes along the stream or adds to its end, and no other agent
touches it. -/
theorem outputIsNeverLostOrReordered : Obligations.OutputIsNeverLostOrReordered := by
  intro s t h ht hkeep
  by_cases hcore : nextTurn s.env = .core
  · rw [step_of_turn hcore] at ht
    exact outputStream_coreStep (s := takeTurn s) (inv_takeTurn h) (fun hdrop => hkeep ⟨hcore, hdrop⟩) ht
  · rw [outputStream_runTurn_of_ne_core hcore ht]
    exact List.prefix_rfl

/-! ### Inbound bytes -/

/-- The end of a call: the output enters the accumulator, or it meets the bound (R40, R93). -/
theorem processEnd_cases (s : State) :
    ((s.transport.out = [] ∨ s.transport.accLen + s.transport.out.length ≤ s.cfg.accCap) ∧ ∃ m : Memory,
      processEnd s = .next (setPhase .flushing (clearOut { s with transport := { s.transport with
        acc := m, accLen := s.transport.accLen + s.transport.out.length } }))) ∨
    (s.transport.out ≠ [] ∧ s.cfg.accCap < s.transport.accLen + s.transport.out.length ∧
      processEnd s = .fault .accOverflow) := by
  rw [processEnd]
  obtain ⟨hroom, m, heq⟩ | ⟨hout, hfull, heq⟩ := appendBytes_cases s.transport.out s <;> rw [heq]
  · exact .inl ⟨hroom, m, rfl⟩
  · exact .inr ⟨hout, hfull, rfl⟩

/-- A read moves bytes from the FIFO to the chunk, which was empty (R93). -/
theorem inboundCount_tickBegin {s : State} (hc : s.transport.chunk = []) :
    inboundCount (tickBegin s) = inboundCount s := by
  obtain ⟨-, hrx, -, heq⟩ | ⟨-, -, heq⟩ | ⟨-, heq⟩ := tickBegin_cases s <;> rw [heq]
  · obtain ⟨-, -, hsize⟩ := chunkSize_range hrx
    simp only [inboundCount, readChunk_logs, readChunk_chunk, readChunk_rxq, hc, List.length_take, List.length_drop,
      List.length_nil]
    omega
  · rfl
  · rfl

/-- An interpreted byte leaves the chunk and moves the cursor (R18, R81). -/
theorem inboundCount_engineByte {s t : State} {b : Byte} {bs : List Byte} (hc : s.transport.chunk = b :: bs)
    (ht : engineByte b (setChunk bs s) = .next t) : inboundCount t = inboundCount s := by
  obtain ⟨outs, hemit⟩ := engineByte_emitted ht
  have hconsumed := (extends_engineByte ht).consumed
  rw [setChunk_logs] at hconsumed
  have hrxq : t.env.rxq = s.env.rxq := by rw [hemit.env]; rfl
  simp only [inboundCount, hconsumed, hemit.transport, hrxq, setChunk_chunk, hc, List.length_cons]
  omega

theorem inboundCount_coreStep {s t : State} (h : Inv s) (ht : coreStep s = .next t) :
    inboundCount t = inboundCount s := by
  obtain ⟨hp, heq⟩ | ⟨b, bs, -, hc, heq⟩ | ⟨-, -, heq⟩ | ⟨-, heq⟩ := coreStep_cases s <;> rw [heq] at ht
  · cases ht
    exact inboundCount_tickBegin ((phaseOk_outside_iff (by simp [hp])).1 h.phase).1
  · exact inboundCount_engineByte hc ht
  · obtain ⟨-, m, hend⟩ | ⟨-, -, hend⟩ := processEnd_cases s <;> cases hend.symm.trans ht
    rfl
  · obtain ⟨-, hend⟩ | ⟨-, hend⟩ := tickEnd_cases s <;> cases hend.symm.trans ht <;> rfl

/-- Settles O52: a read and a byte move inbound bytes on, and no other core step touches them. -/
theorem inboundBytesAreNeverDropped : Obligations.InboundBytesAreNeverDropped := by
  intro s t h hcore ht
  rw [step_of_turn hcore] at ht
  exact inboundCount_coreStep (s := takeTurn s) (inv_takeTurn h) ht

/-! ### Faults and refusals -/

/-- The core loop is at the end of a call whose output does not fit below `ACC_CAP` (R40). -/
abbrev CallOverflows (s : State) : Prop :=
  s.transport.phase = .processing ∧ s.transport.chunk = [] ∧ s.transport.out ≠ [] ∧
    s.cfg.accCap < s.transport.accLen + s.transport.out.length

theorem coreStep_outcome (s : State) :
    (¬ CallOverflows s ∧ ∃ t, coreStep s = .next t) ∨ (CallOverflows s ∧ coreStep s = .fault .accOverflow) := by
  obtain ⟨hp, heq⟩ | ⟨b, bs, -, hc, heq⟩ | ⟨hp, hc, heq⟩ | ⟨hp, heq⟩ := coreStep_cases s <;> rw [heq]
  · exact .inl ⟨by simp [CallOverflows, hp], _, rfl⟩
  · exact .inl ⟨by simp [CallOverflows, hc], engineByte_completes b _⟩
  · obtain ⟨hroom, m, hend⟩ | ⟨hout, hfull, hend⟩ := processEnd_cases s
    · refine .inl ⟨fun ⟨_, _, hout, hfull⟩ => ?_, _, hend⟩
      rcases hroom with hnil | hroom
      · exact hout hnil
      · exact absurd hfull (Nat.not_lt.2 hroom)
    · exact .inr ⟨⟨hp, hc, hout, hfull⟩, hend⟩
  · refine .inl ⟨by simp [CallOverflows, hp], ?_⟩
    obtain ⟨-, hend⟩ | ⟨-, hend⟩ := tickEnd_cases s <;> exact ⟨_, hend⟩

theorem runTurn_completes_of_ne_core {m : Turn} (hm : m ≠ .core) (s : State) : ∃ t, runTurn m s = .next t := by
  cases m with
  | core => exact absurd rfl hm
  | event _ | rx _ | link _ | ready _ | receive _ | elapse _ => exact ⟨_, rfl⟩

/-- A step answers a next state, or the overflow at the end of a call, in any state whatever (R105). -/
theorem step_outcome (s : State) :
    (¬ (nextTurn s.env = .core ∧ CallOverflows s) ∧ ∃ t, step s = .next t) ∨
    ((nextTurn s.env = .core ∧ CallOverflows s) ∧ step s = .fault .accOverflow) := by
  by_cases hcore : nextTurn s.env = .core
  · rw [step_of_turn hcore]
    simp only [hcore, true_and]
    exact coreStep_outcome (takeTurn s)
  · rw [step_of_turn rfl]
    exact .inl ⟨fun h => hcore h.1, runTurn_completes_of_ne_core hcore _⟩

/-- Settles O60: the two outcomes of a step exclude each other, and neither is a refusal. -/
theorem noStepIsRefusedAndOnlyOverflowFaults : Obligations.NoStepIsRefusedAndOnlyOverflowFaults := by
  refine ⟨fun s r hr => ?_, fun s => ?_, fun s f _ => by cases f; rfl⟩
  · obtain ⟨-, t, heq⟩ | ⟨-, heq⟩ := step_outcome s <;> cases heq.symm.trans hr
  · obtain ⟨hno, t, heq⟩ | ⟨hyes, heq⟩ := step_outcome s
    · exact ⟨fun hf => (nomatch heq.symm.trans hf), fun hyes => absurd hyes hno⟩
    · exact ⟨fun _ => hyes, fun _ => heq⟩

/-! ### The accumulator's primitives -/

/-- Settles O50: the guards of MemWrite and MemRead are their bounds, and within them they write and read the storage
as it is. -/
theorem accumulatorAccessesAreBounded : Obligations.AccumulatorAccessesAreBounded := by
  refine ⟨fun a v s hlt => ⟨_, if_pos hlt, ?_, fun b hb => ?_, rfl⟩, fun a v s hge => if_neg (Nat.not_lt.2 hge),
    fun a n s hle => ⟨_, if_pos hle, Memory.length_readN _ _ _ _, fun k v hk hv => ?_⟩,
    fun a n s hgt => if_neg (Nat.not_le.2 hgt)⟩
  · exact Memory.read?_write_same _ _ _
  · exact Memory.read?_write_other _ _ hb
  · exact Memory.readN_value _ _ _ _ _ _ hk hv

/-! ### Samples, and the GPIO word -/

theorem answerAt_takeAnswer (s : State) (k : Nat) : answerAt (takeAnswer s).env k = answerAt s.env (k + 1) := by
  rw [takeAnswer_env, answerAt_afterSamples, Nat.add_comm]

/-- Settles O23: a sample logs the answer it takes, and the next answer is the one after it; a delay and an indicator
call are the log entry alone. -/
theorem samplesAndDelaysOnlyLog : Obligations.SamplesAndDelaysOnlyLog := by
  intro s
  rw [← nextAnswer_eq]
  exact ⟨⟨(pinSample2 s).2, rfl, rfl, rfl, answerAt_takeAnswer s⟩,
    fun j => ⟨(pinSample1 j s).2, rfl, rfl, rfl, answerAt_takeAnswer s⟩, fun _ => rfl, fun _ => rfl⟩

/-- One pin of the GPIO word: the level counted from `PIN_BASE`, and 0 below it (R36). -/
theorem gpioWord_testBit (c : Config) (v : Levels) (g : Nat) :
    (gpioWord c v).testBit g = (decide (c.pinBase ≤ g) && v.getLsbD (g - c.pinBase)) := by
  rw [gpioWord, Nat.testBit_shiftLeft, BitVec.testBit_toNat]

/-- Settles O28: a pin's bit is the level that many places above `PIN_BASE`, and there are five levels. -/
theorem gpioWordCarriesTheLevels : Obligations.GpioWordCarriesTheLevels := by
  intro c v
  refine ⟨fun i => ?_, fun g hg => ?_, rfl, rfl, fun hwf => ⟨fun i => ?_, fun j => ?_⟩⟩
  · simp [gpioWord_testBit, writablePin]
  · rw [gpioWord_testBit, Bool.and_eq_false_imp]
    intro hbase
    refine BitVec.getLsbD_of_ge _ _ (Nat.not_lt.1 fun hlt => hg ⟨g - c.pinBase, hlt⟩ ?_)
    simp only [decide_eq_true_eq] at hbase
    simp only [writablePin]
    omega
  all_goals obtain ⟨-, haux, -⟩ := (config_wf_iff c).1 hwf
  · simp only [writablePin]
    omega
  · cases j <;> simp only [readablePin, nOut, Input.index] <;> omega

/-! ### What a byte depends on -/

section
variable {s₁ s₂ : State} (hcfg : s₁.cfg = s₂.cfg) (hlatch : s₁.pins.outLatch = s₂.pins.outLatch)
  (hans : ∀ k, answerAt s₁.env k = answerAt s₂.env k)
include hcfg hlatch hans

theorem shiftSample_congr (k : Nat) : shiftSample s₁ k = shiftSample s₂ k := by
  rw [shiftSample, shiftSample, selectedInput, selectedInput, hans, hcfg, hlatch]

theorem shiftExchange_congr (d : Byte) : (shiftExchange d s₁).1 = (shiftExchange d s₂).1 := by
  refine BitVec.eq_of_getLsbD_eq fun i hi => ?_
  rw [shiftExchange_bit _ _ _ hi, shiftExchange_bit _ _ _ hi, shiftSample_congr hcfg hlatch hans]

theorem shiftEvents_congr (d : Byte) : shiftEvents d s₁ = shiftEvents d s₂ := by
  simp only [shiftEvents, selectedInput, hcfg, hlatch, shiftSample_congr hcfg hlatch hans]

end

/-- Settles O21: the events, the output and the new state of each instruction, read off its record, mention only what
the two states share. -/
theorem engineByteDependsOnEngineAndPinsOnly : Obligations.EngineByteDependsOnEngineAndPinsOnly := by
  intro b s₁ s₂ hcfg hengine hoe hlatch hans
  have hans' : ∀ j k, answerAt (afterSamples s₁.env j) k = answerAt (afterSamples s₂.env j) k := by
    intro j k
    rw [answerAt_afterSamples, answerAt_afterSamples, hans]
  obtain ⟨r, o, p, hs, hb, heq⟩ | ⟨c, n, hs, hb, heq⟩ | ⟨k, c, hs, heq⟩ := engineByte_cases b s₁
  · refine ⟨_, _, _, _, heq, engineByte_bitbang (hengine ▸ hs) hb, hengine, rfl, rfl, List.append_assoc .., ?_, rfl,
      ?_, hans' 1⟩
    · simp [afterBitbang, hcfg, hoe, hans]
    · simp [afterBitbang, hans]
  · refine ⟨_, _, _, [], heq, engineByte_shift (hengine ▸ hs) hb, ?_, hoe, ?_, rfl, ?_, (List.append_nil _).symm,
      (List.append_nil _).symm, hans⟩
    · simp [afterShiftHeader, hengine]
    · simp [afterShiftHeader, hcfg, hlatch]
    · simp [afterShiftHeader, hcfg]
  · refine ⟨_, _, _, _, heq, engineByte_data (hengine ▸ hs), rfl, hoe, ?_, rfl, ?_, rfl, ?_, hans' 8⟩
    · simp [afterDataByte, hlatch]
    · simp [afterDataByte, shiftEvents_congr hcfg hlatch hans]
    · simp [afterDataByte, shiftExchange_congr hcfg hlatch hans]

/-! ### Chunk boundaries -/

/-- From `s` to `t` the Transport Adapter has carried `outs` to the end of the output stream, with nothing left in the
output list: the accumulator is filled, and longer by the length of `outs` at most. -/
structure Carried (s t : State) (outs : List Byte) : Prop where
  filled : AccFilled t
  accLen : t.transport.accLen ≤ s.transport.accLen + outs.length
  out : t.transport.out = []
  stream : outputStream t = outputStream s ++ outs

theorem Carried.refl {s : State} (hfilled : AccFilled s) (hout : s.transport.out = []) : Carried s s [] :=
  ⟨hfilled, Nat.le_refl _, hout, (List.append_nil _).symm⟩

/-- Reading and processing a chunk does to the engine what its bytes do from any state `r` with the same engine, and
carries what they emit into the accumulator (R81, R93). -/
theorem readAndProcess_follows {k : Nat} {s r e : State} {outs : List Byte} (hr : SameEngine s r)
    (he : engineBytes (s.env.rxq.take k) r = .next e) (hemit : Emitted r e outs) (hfilled : AccFilled s)
    (hout : s.transport.out = []) (hcap : s.transport.accLen + outs.length ≤ s.cfg.accCap) :
    ∃ t, readAndProcess k s = .next t ∧ SameEngine t e ∧ Carried s t outs ∧ t.env.rxq = s.env.rxq.drop k := by
  have hstart : SameEngine (setChunk [] (readChunk k s)) r := { hr with }
  obtain ⟨u, e', outs', hu, he', hsame, hemit₁, hemit₂, -⟩ := engineBytes_same (s.env.rxq.take k) hstart
  cases he'.symm.trans he
  cases hemit₂.unique hemit
  obtain ⟨m, ht, hm, hbytes⟩ := readAndProcess_filled hfilled hu hemit₁ hcap
  refine ⟨_, ht, { hsame with }, ⟨hm, Nat.le_refl _, rfl, ?_⟩, ?_⟩
  · simp [outputStream, accBytes, hbytes, hemit₁.txlog, hout]
  · rw [hemit₁.env]; rfl

/-- The end of a tick is nothing to the engine, and it neither adds to the output stream nor takes from it. -/
theorem tickEnd_follows {s t : State} (hfilled : AccFilled s) (hout : s.transport.out = [])
    (ht : tickEnd s = .next t) : SameEngine t s ∧ Carried s t [] ∧ t.env.rxq = s.env.rxq := by
  have hstream : outputStream t = outputStream s ++ [] :=
    (outputStream_tickEnd hfilled ht).trans (List.append_nil _).symm
  obtain ⟨-, heq⟩ | ⟨-, heq⟩ := tickEnd_cases s <;> cases heq.symm.trans ht
  · exact ⟨{ SameEngine.refl s with }, ⟨hfilled, Nat.le_refl _, hout, hstream⟩, rfl⟩
  · have hrest := Memory.filled_dropFront hfilled (payloadLen_le s)
    exact ⟨{ SameEngine.refl s with }, ⟨hrest, Nat.sub_le _ _, hout, hstream⟩, rfl⟩

theorem tickEnd_completes (s : State) : ∃ t, tickEnd s = .next t := by
  obtain ⟨-, heq⟩ | ⟨-, heq⟩ := tickEnd_cases s <;> exact ⟨_, heq⟩

/-- Settles O15: one run of the engine, cut after the first part, is followed by both ways of reading; the output of
each part goes to the end of the stream, whether or not a flush moves it on in between. -/
theorem chunkBoundariesMakeNoDifference : Obligations.ChunkBoundariesMakeNoDifference := by
  intro j k s h hp hgate hjk
  obtain ⟨-, hout⟩ := (phaseOk_outside_iff (by simp [hp])).1 h.phase
  obtain ⟨-, -, hcap⟩ := (config_wf_iff _).1 h.cfg
  obtain ⟨e₁, o₁, he₁, hemit₁, hlen₁⟩ := engineBytes_emitted (s.env.rxq.take j) s
  obtain ⟨e, o₂, he₂, hemit₂, hlen₂⟩ := engineBytes_emitted ((s.env.rxq.drop j).take k) e₁
  have he : engineBytes (s.env.rxq.take (j + k)) s = .next e := by
    rw [List.take_add, engineBytes_append, he₁, andThen_next, he₂]
  rw [List.length_take] at hlen₁ hlen₂
  obtain ⟨t₁, ht₁, hsame₁, hcar₁, hrxq₁⟩ :=
    readAndProcess_follows (SameEngine.refl s) he₁ hemit₁ h.accFilled hout (by omega)
  obtain ⟨t, ht, hsame, hcar, hrxq⟩ :=
    readAndProcess_follows (SameEngine.refl s) he (hemit₁.trans hemit₂) h.accFilled hout
      (by rw [List.length_append]; omega)
  refine ⟨t₁, t, ht₁, ht, tickEnd_completes t₁, fun u hu => ?_⟩
  obtain ⟨husame, hucar, hurxq⟩ : SameEngine u t₁ ∧ Carried t₁ u [] ∧ u.env.rxq = t₁.env.rxq := by
    rcases hu with rfl | hu
    · exact ⟨SameEngine.refl u, Carried.refl hcar₁.filled hcar₁.out, rfl⟩
    · exact tickEnd_follows hcar₁.filled hcar₁.out hu
  have hr : SameEngine u e₁ := husame.trans hsame₁
  have hroom : u.transport.accLen + o₂.length ≤ u.cfg.accCap := by
    have hu := hucar.accLen
    have h₁ := hcar₁.accLen
    rw [hr.cfg, hemit₁.cfg]
    simp only [List.length_nil] at hu
    omega
  obtain ⟨t₂, ht₂, hsame₂, hcar₂, hrxq₂⟩ :=
    readAndProcess_follows hr (by rw [hurxq, hrxq₁]; exact he₂) hemit₂ hucar.filled hucar.out hroom
  have hS : SameEngine t₂ t := hsame₂.trans hsame.symm
  refine ⟨t₂, ht₂, hS.engine, hS.pins, hS.trace, hS.answerAt, hS.consumed, ?_, ?_⟩
  · rw [hrxq₂, hurxq, hrxq₁, hrxq, List.drop_drop]
  · rw [hcar₂.stream, hucar.stream, hcar₁.stream, hcar.stream, List.append_nil, List.append_assoc]

/-! ### Loopback -/

/-- The level of data-out in the latch (R19). -/
abbrev dataOut (s : State) : Bool := s.pins.outLatch.getLsbD 4

/-- From `s` to `t` the events `evs` were logged, and they leave data-out at the level that they write; if they are
those of LOOP, `bs` was emitted; and they are those of LOOP if `wired` says so (R79). -/
structure Echoes (wired : Prop) (s t : State) (evs : List Event) (bs : List Byte) : Prop where
  trace : t.logs.trace = s.logs.trace ++ evs
  level : dataOut t = evs.foldl dataOutAfter (dataOut s)
  out : loopTrace (dataOut s) evs = true → t.transport.out = s.transport.out ++ bs
  loop : wired → loopTrace (dataOut s) evs = true

theorem Echoes.refl (wired : Prop) (s : State) : Echoes wired s s [] [] :=
  ⟨(List.append_nil _).symm, rfl, fun _ => (List.append_nil _).symm, fun _ => rfl⟩

theorem Echoes.trans {wired : Prop} {s t u : State} {es fs : List Event} {as bs : List Byte}
    (h : Echoes wired s t es as) (h' : Echoes wired t u fs bs) : Echoes wired s u (es ++ fs) (as ++ bs) where
  trace := by rw [h'.trace, h.trace, List.append_assoc]
  level := by rw [h'.level, h.level, List.foldl_append]
  out hloop := by
    rw [loopTrace_append, ← h.level, Bool.and_eq_true] at hloop
    rw [h'.out hloop.2, h.out hloop.1, List.append_assoc]
  loop hw := by rw [loopTrace_append, ← h.level, h.loop hw, h'.loop hw]; rfl

/-- A header takes no sample and writes no data-out level, so it is a run of LOOP under any wiring (R85). -/
theorem echoes_header (wired : Prop) (c : Bool) (n : BurstLen) (s : State) :
    ∃ evs, Echoes wired s (countByte (afterShiftHeader c n s)) evs [] := by
  have hlatch : ∀ l : Levels, (l &&& 0b11110#5).getLsbD 4 = l.getLsbD 4 := by decide
  refine ⟨_, rfl, ?_, fun _ => (List.append_nil _).symm, fun _ => ?_⟩
  · by_cases hw : n ≠ 0#6 ∨ s.cfg.zeroLenClkLow = true
    · simp only [dataOut, countByte, afterShiftHeader, if_pos hw, hlatch]; rfl
    · simp only [dataOut, countByte, afterShiftHeader, if_neg hw, List.foldl_nil]
  · split <;> rfl

/-- A byte of a capturing burst returns itself when every sample is the bit sent just before it (R76, R79). -/
theorem echoes_data {wired : Prop} (d : Byte) (k : BurstLen) (s : State)
    (hwired : wired → ∀ i, i < 8 → shiftSample s i = d.getLsbD i) :
    Echoes wired s (countByte (afterDataByte d k true s)) (shiftEvents d s) [d] := by
  obtain ⟨hloop, hlevel⟩ := loop_shiftEvents d s (dataOut s)
  have hlatch : ∀ (l : Levels) (b : Bool),
      ((l &&& 0b01110#5) ||| if b then 0b10000#5 else 0b00000#5).getLsbD 4 = b := by decide
  refine ⟨rfl, (hlatch _ _).trans hlevel.symm, fun h => ?_, fun hw => hloop.2 (hwired hw)⟩
  have hd : (shiftExchange d s).1 = d :=
    BitVec.eq_of_getLsbD_eq fun i hi => (shiftExchange_bit d s i hi).trans (hloop.1 h i hi)
  simp [countByte, afterDataByte, hd]

/-- LOOP's answers to a data byte are its own bits (log 16). -/
theorem shiftSample_wireLoop (d : Byte) (s : State) (i : Nat) (hi : i < 8) :
    shiftSample (wireLoop (.data d) s) i = d.getLsbD i := by
  have hboth : ∀ (b : Bool) (j : Input), (bothInputs b).getLsbD j.index = b := by
    intro b j; cases b <;> cases j <;> rfl
  have hans : answerAt (wireLoop (.data d) s).env i = bothInputs (d.getLsbD i) := by
    interval_cases i <;> rfl
  rw [shiftSample, hans, hboth]

theorem Echoes.of_wireLoop {wired : Prop} {i : Instr} {s t : State} {evs : List Event} {bs : List Byte}
    (h : Echoes wired (wireLoop i s) t evs bs) : Echoes wired s t evs bs := { h with }

theorem decode_encode_shift (c : Bool) (n : BurstLen) : decode .idle (encode (.shift c n)) = .shift c n := by
  revert c n; decide

/-- The engine after a data byte is that after a header with one byte less (R64, R84). -/
theorem afterData_eq_afterShift (k : BurstLen) (c : Bool) : afterData k c = afterShift .idle c (k - 1#6) := by
  have hlast : k - 1#6 = 0#6 ↔ k = 1#6 := sub_eq_zero
  simp only [afterData, afterShift, hlast]

section
/-! A way to run bytes: one at a time by `one`, and in order by `run`. Both ways of the statement, with any answers and
with those of log 16, are such. -/
variable {wired : Prop} {one : Byte → State → Result} {run : List Byte → State → Result}
  (hnil : ∀ s, run [] s = .next s) (hcons : ∀ b bs s, run (b :: bs) s = andThen (one b s) (run bs))
  (hdata : ∀ (b : Byte) (k : BurstLen) (s : State), s.engine = .shiftActive k true →
    ∃ t evs, one b s = .next t ∧ t.engine = afterData k true ∧ Echoes wired s t evs [b])
include hnil hcons hdata

/-- The data bytes of a capturing burst with `n` due: each is echoed, and the last one ends the burst. -/
theorem burst_echoes : ∀ (ds : List Byte) (n : BurstLen) (s : State), s.engine = afterShift .idle true n →
    ds.length = n.toNat →
    ∃ t evs, run ds s = .next t ∧ t.engine = .idle ∧ Echoes wired s t evs ds := by
  intro ds
  induction ds with
  | nil =>
    intro n s hs hn
    have hzero : n = 0#6 := BitVec.eq_of_toNat_eq hn.symm
    exact ⟨s, [], hnil s, by rw [hs, afterShift, if_pos hzero], Echoes.refl wired s⟩
  | cons d ds ih =>
    intro n s hs hn
    rw [List.length_cons] at hn
    have hne : n ≠ 0#6 := by rintro rfl; simp at hn
    rw [afterShift, if_neg hne] at hs
    obtain ⟨u, es, hu, hue, hech⟩ := hdata d n s hs
    obtain ⟨t, fs, ht, hte, hech'⟩ :=
      ih (n - 1#6) u (hue.trans (afterData_eq_afterShift n true)) (by bv_omega)
    exact ⟨t, es ++ fs, by rw [hcons, hu, andThen_next, ht], hte, hech.trans hech'⟩

/-- A whole capturing burst: its header starts it, and its data bytes come back. -/
theorem capturingBurst_echoes
    (hhead : ∀ (n : BurstLen) (s : State), s.engine = .idle → ∃ t evs, one (encode (.shift true n)) s = .next t ∧
      t.engine = afterShift .idle true n ∧ Echoes wired s t evs [])
    {n : BurstLen} {ds : List Byte} {s : State} (hs : s.engine = .idle) (hn : ds.length = n.toNat) :
    ∃ t evs, run (encode (.shift true n) :: ds) s = .next t ∧ t.engine = .idle ∧ Echoes wired s t evs ds := by
  obtain ⟨u, es, hu, hue, hech⟩ := hhead n s hs
  obtain ⟨t, fs, ht, hte, hech'⟩ := burst_echoes hnil hcons hdata ds n u hue hn
  exact ⟨t, es ++ fs, by rw [hcons, hu, andThen_next, ht], hte, hech.trans hech'⟩

end

theorem engineByte_header_echoes {n : BurstLen} {s : State} (wired : Prop) (hs : s.engine = .idle) :
    ∃ t evs, engineByte (encode (.shift true n)) s = .next t ∧ t.engine = afterShift .idle true n ∧
      Echoes wired s t evs [] := by
  obtain ⟨evs, hech⟩ := echoes_header wired true n s
  exact ⟨_, evs, engineByte_shift hs (decode_encode_shift true n), congrArg (afterShift · true n) hs, hech⟩

theorem engineByteLoop_header_echoes {n : BurstLen} {s : State} (hs : s.engine = .idle) :
    ∃ t evs, engineByteLoop (encode (.shift true n)) s = .next t ∧ t.engine = afterShift .idle true n ∧
      Echoes True s t evs [] := by
  obtain ⟨t, evs, ht, hte, hech⟩ := engineByte_header_echoes (n := n) (s := wireLoop _ s) True hs
  exact ⟨t, evs, ht, hte, hech.of_wireLoop⟩

theorem engineByteLoop_data_echoes {b : Byte} {k : BurstLen} {s : State} (hs : s.engine = .shiftActive k true) :
    ∃ t evs, engineByteLoop b s = .next t ∧ t.engine = afterData k true ∧ Echoes True s t evs [b] := by
  have hdec : decode s.engine.mode b = .data b := by rw [hs]; rfl
  refine ⟨_, _, ?_, rfl, (echoes_data b k (wireLoop (.data b) s) fun _ => shiftSample_wireLoop b s).of_wireLoop⟩
  rw [engineByteLoop, hdec, engineByte_data (s := wireLoop (.data b) s) hs]

/-- Settles O18: with any answers a burst echoes its bytes if its events are those of LOOP, and with the answers of
log 16 they are. -/
theorem loopbackBurstReturnsItsBytes : Obligations.LoopbackBurstReturnsItsBytes := by
  intro n ds s hs _ hn
  constructor
  · obtain ⟨t, evs, ht, hte, hech⟩ := capturingBurst_echoes (wired := False) engineBytes_nil engineBytes_cons
      (fun b k s hb => ⟨_, _, engineByte_data hb, rfl, echoes_data b k s False.elim⟩)
      (fun _ _ => engineByte_header_echoes False) hs hn
    exact ⟨t, evs, ht, hech.trace, hte, hech.level, hech.out⟩
  · obtain ⟨t, evs, ht, -, hech⟩ := capturingBurst_echoes (run := engineBytesLoop) (fun _ => rfl) (fun _ _ _ => rfl)
      (fun _ _ _ => engineByteLoop_data_echoes) (fun _ _ => engineByteLoop_header_echoes) hs hn
    exact ⟨t, evs, ht, hech.trace, hech.loop trivial, hech.out (hech.loop trivial)⟩

end Sys2Proof.Machine
end

section
/-! PROOF. The obligations about the encoding (spec/30_encoding.md): decode and encode are inverse in each mode, and
from that the byte ranges, the opcode table and the programs that read back; then the count of data bytes due, which
an assembler tracks and the engine keeps. -/

namespace Sys2Proof.Machine

/-! ### Decode and encode -/

theorem legalIn_iff {m : Mode} {i : Instr} : i.legalIn m = true ↔ i.decodeMode = m := by
  simp [Instr.legalIn]

theorem decode_encode_bitbang (r o : Bool) (p : Levels) :
    decode .idle (encode (.bitbang r o p)) = .bitbang r o p := by
  revert r o p; decide

/-- Decoding in an instruction's own mode undoes encoding (R66). -/
theorem decode_encode (i : Instr) : decode i.decodeMode (encode i) = i := by
  cases i with
  | bitbang r o p => exact decode_encode_bitbang r o p
  | shift c n => exact decode_encode_shift c n
  | data d => rfl

theorem encode_decodeBitbang {b : Byte} (h : b.getLsbD 7 = false) : encode (decodeBitbang b) = b := by
  revert b; decide

theorem encode_decodeShift {b : Byte} (h : b.getLsbD 7 = true) : encode (decodeShift b) = b := by
  revert b; decide

/-- Encoding undoes decoding in either mode (R62, R66). -/
theorem encode_decode (m : Mode) (b : Byte) : encode (decode m b) = b := by
  cases m with
  | shiftActive => rfl
  | idle =>
    rw [decode]
    split
    case isTrue h => exact encode_decodeShift h
    case isFalse h => exact encode_decodeBitbang (Bool.not_eq_true _ ▸ h)

/-- The decoder gives only instructions of its mode (R63). -/
@[simp] theorem decodeMode_decode (m : Mode) (b : Byte) : (decode m b).decodeMode = m := by
  cases m with
  | shiftActive => rfl
  | idle => rw [decode]; split <;> rfl

theorem legalIn_decode (m : Mode) (b : Byte) : (decode m b).legalIn m = true :=
  legalIn_iff.2 (decodeMode_decode m b)

/-- An instruction reads back exactly in the mode it is legal in (R66). -/
theorem decode_encode_eq_iff {m : Mode} {i : Instr} : decode m (encode i) = i ↔ i.legalIn m = true := by
  constructor
  · intro h
    rw [← h]
    exact legalIn_decode m _
  · intro h
    rw [← legalIn_iff.1 h]
    exact decode_encode i

/-- Settles O3: the two directions, each a case for every format. -/
theorem decodeAndEncodeAgree : Obligations.DecodeAndEncodeAgree :=
  ⟨fun _ _ => decode_encode_eq_iff.2, fun m b => ⟨encode_decode m b, legalIn_decode m b⟩⟩

/-- Settles O4, by induction on the program: its first instruction reads back exactly if it is legal, and then the
count tracked after it is the decoder's. -/
theorem legalProgramsAreTheOnesReadBack : Obligations.LegalProgramsAreTheOnesReadBack := by
  intro k is
  induction is generalizing k with
  | nil => exact iff_of_true rfl rfl
  | cons i is ih =>
    rw [programLegalFrom, Bool.and_eq_true, List.map_cons, decodeStream, List.cons_eq_cons, decode_encode_eq_iff]
    refine and_congr_right fun hlegal => ?_
    rw [decode_encode_eq_iff.2 hlegal]
    exact ih (remainingAfter k i)

/-! ### The count of data bytes due -/

/-- In a legal engine state the mode is the one its count gives (R16, R65). -/
theorem mode_eq_modeOfRemaining {s : State} (h : EngineOk s) : s.engine.mode = modeOfRemaining (dueBytes s.engine) := by
  cases he : s.engine with
  | idle => rfl
  | shiftActive k c =>
    have hk : k.toNat ≠ 0 := fun h0 => (engineOk_shiftActive_iff he).1 h (BitVec.eq_of_toNat_eq h0)
    obtain ⟨j, hj⟩ := Nat.exists_eq_succ_of_ne_zero hk
    rw [dueBytes, hj]
    rfl

theorem engine_eq_idle_of_mode {e : Engine} (h : e.mode = .idle) : e = .idle := by
  cases e with
  | idle => rfl
  | shiftActive k c => cases h

theorem dueBytes_afterShift_idle (c : Bool) (n : BurstLen) : dueBytes (afterShift .idle c n) = n.toNat := by
  by_cases hn : n = 0#6
  · rw [afterShift, if_pos hn, hn]; rfl
  · rw [afterShift, if_neg hn]; rfl

theorem dueBytes_afterData {k : BurstLen} (c : Bool) (hk : k ≠ 0#6) :
    dueBytes (afterData k c) = k.toNat - 1 := by
  rw [afterData_eq_afterShift, dueBytes_afterShift_idle]
  bv_omega

/-- An instruction of the engine's mode leaves a legal engine state, with the count that an assembler tracks (R65,
R84 to R86). -/
theorem exec_tracks {i : Instr} {s : State} (h : EngineOk s) (hlegal : i.legalIn s.engine.mode = true) :
    ∃ t, exec i s = .next t ∧ EngineOk t ∧ dueBytes t.engine = remainingAfter (dueBytes s.engine) i := by
  have hmode := legalIn_iff.1 hlegal
  cases i with
  | bitbang r o p => exact ⟨_, execBitbang_eq r o p s, h, rfl⟩
  | shift c n =>
    have hidle := engine_eq_idle_of_mode hmode.symm
    refine ⟨_, execShift_eq c n s, engineOk_of_afterShift hidle rfl, ?_⟩
    rw [afterShiftHeader, hidle]
    exact dueBytes_afterShift_idle c n
  | data d =>
    cases he : s.engine with
    | idle => rw [he] at hmode; cases hmode
    | shiftActive k c =>
      exact ⟨_, execData_eq he, engineOk_of_afterData rfl,
        dueBytes_afterData c ((engineOk_shiftActive_iff he).1 h)⟩

/-- Settles O5: each instruction keeps the engine legal and the count tracked, and a legal engine's mode is that of
its count. -/
theorem trackedRemainingIsTheEngines : Obligations.TrackedRemainingIsTheEngines := by
  refine ⟨fun i s h hlegal => ?_, fun _ => mode_eq_modeOfRemaining⟩
  obtain ⟨t, ht, hok, hdue⟩ := exec_tracks h hlegal
  exact ⟨t, ht, hdue, mode_eq_modeOfRemaining hok⟩

/-! ### Encoded bytes as numbers -/

/-- Format BB as a number (R56). -/
theorem encode_bitbang_eq (r o : Bool) (p : Levels) :
    encode (.bitbang r o p) = BitVec.ofNat 8 (r.toNat * 64 + o.toNat * 32 + p.toNat) := by
  revert r o p; decide

/-- Format SH as a number (R57). -/
theorem encode_shift_eq (c : Bool) (n : BurstLen) :
    encode (.shift c n) = BitVec.ofNat 8 (0x80 + c.toNat * 64 + n.toNat) := by
  revert c n; decide

/-! ### The pseudo-instructions -/

theorem signalLevels_toNat (dout cs ce mode clk : Bool) : (signalLevels dout cs ce mode clk).toNat =
    dout.toNat * 16 + cs.toNat * 8 + ce.toNat * 4 + mode.toNat * 2 + clk.toNat := by
  revert dout cs ce mode clk; decide

theorem toNat_clockLow (p : Levels) : (p &&& 0b11110#5).toNat = p.toNat / 2 * 2 := by
  revert p; decide

theorem toNat_clockHigh (p : Levels) : (p ||| 0b00001#5).toNat = p.toNat / 2 * 2 + 1 := by
  revert p; decide

theorem map_encode_data (ds : List Byte) : (ds.map Instr.data).map encode = ds := by
  simp [Function.comp_def, encode]

/-- Data bytes are a legal program where at least as many are due (R65, R66). -/
theorem programLegalFrom_data {k : Nat} {ds : List Byte} (h : ds.length ≤ k) :
    programLegalFrom k (ds.map .data) = true := by
  induction ds generalizing k with
  | nil => rfl
  | cons d ds ih =>
    obtain ⟨j, rfl⟩ := Nat.exists_eq_add_of_le' (Nat.le_trans (Nat.le_add_left 1 _) h)
    exact ih (Nat.le_of_succ_le_succ h)

theorem toNat_burstLen {n : Nat} (h : n ≤ 63) : (BitVec.ofNat 6 n).toNat = n :=
  Nat.mod_eq_of_lt (Nat.lt_succ_of_le h)

/-- The bytes of a burst: its header and then its data (R67). -/
theorem map_encode_burst (c : Bool) {ds : List Byte} (h : ds.length ≤ 63) :
    (Instr.shift c (BitVec.ofNat 6 ds.length) :: ds.map .data).map encode =
      BitVec.ofNat 8 (0x80 + c.toNat * 64 + ds.length) :: ds := by
  rw [List.map_cons, encode_shift_eq, toNat_burstLen h, map_encode_data]

/-- A burst is legal from Idle: its header makes all of its data bytes due (R65, R66). -/
theorem programLegal_burst (c : Bool) {ds : List Byte} (h : ds.length ≤ 63) :
    programLegal (.shift c (BitVec.ofNat 6 ds.length) :: ds.map .data) = true :=
  programLegalFrom_data (toNat_burstLen h).ge

/-- Settles O7: the bytes of each format as numbers, and the two bursts as one case with either capture flag. -/
theorem pseudoInstructionsExpandToTheirBytes : Obligations.PseudoInstructionsExpandToTheirBytes := by
  refine ⟨fun r oe dout cs ce mode clk => ?_, fun r oe p => ?_, fun ds _ hlen => ?_, rfl⟩
  · simp only [Pseudo.expand, List.map_cons, List.map_nil, encode_bitbang_eq, signalLevels_toNat, Nat.add_assoc]
  · simp only [Pseudo.expand, List.map_cons, List.map_nil, encode_bitbang_eq, toNat_clockLow, toNat_clockHigh,
      Bool.toNat_false, Nat.zero_mul, Nat.zero_add, Nat.add_assoc]
  · exact ⟨map_encode_burst false hlen, map_encode_burst true hlen, programLegal_burst false hlen,
      programLegal_burst true hlen⟩

/-! ### The byte ranges and the opcode table -/

theorem decode_idle_bitbang {b : Byte} {r o : Bool} {k : Nat} (hk : k < 32)
    (hb : b.toNat = r.toNat * 64 + o.toNat * 32 + k) : decode .idle b = .bitbang r o (BitVec.ofNat 5 k) := by
  have henc : encode (.bitbang r o (BitVec.ofNat 5 k)) = b := by
    rw [encode_bitbang_eq, BitVec.toNat_ofNat, Nat.mod_eq_of_lt hk, ← hb, BitVec.ofNat_toNat, BitVec.setWidth_eq]
  rw [← henc, decode_encode_bitbang]

theorem decode_idle_shift {b : Byte} {c : Bool} {k : Nat} (hk : k < 64)
    (hb : b.toNat = 0x80 + c.toNat * 64 + k) : decode .idle b = .shift c (BitVec.ofNat 6 k) := by
  have henc : encode (.shift c (BitVec.ofNat 6 k)) = b := by
    rw [encode_shift_eq, BitVec.toNat_ofNat, Nat.mod_eq_of_lt hk, ← hb, BitVec.ofNat_toNat, BitVec.setWidth_eq]
  rw [← henc, decode_encode_shift]

/-- Settles O1: each range of R62 is one format with fixed flags, counted from the beginning of the range. -/
theorem decoderFollowsTheByteRanges : Obligations.DecoderFollowsTheByteRanges := by
  intro b
  have hb := b.isLt
  refine ⟨rfl, fun _ => ?_, fun _ _ => ?_, fun _ _ => ?_, fun _ _ => ?_, fun _ _ => ?_, fun _ => ?_⟩
  case refine_1 | refine_2 | refine_3 | refine_4 => apply decode_idle_bitbang <;> grind
  case refine_5 | refine_6 => apply decode_idle_shift <;> grind

/-- Settles O2, by running the decoder on the six words. -/
theorem formatWordsDecode : Obligations.FormatWordsDecode := by
  unfold Obligations.FormatWordsDecode
  decide

theorem tableBits (i : Instr) : Laws.TableBits.Statement i := by
  cases i with
  | bitbang r o p => exact Laws.TableBits.bitbang r o p
  | shift c n => exact Laws.TableBits.shift c n
  | data d => exact Laws.TableBits.data d

/-- A byte matches the rows with the mnemonic of the instruction it decodes to (R62). -/
theorem matchesByte_iff_mnemonic (m : Mode) (b : Byte) {row : OpcodeRow} (hrow : row ∈ opcodeTable) :
    row.matchesByte m b = true ↔ row.mnemonic = (decode m b).mnemonic := by
  have h := tableBits (decode m b) row hrow
  rwa [decodeMode_decode, encode_decode] at h

/-- The table has one row for each mnemonic. -/
theorem existsUnique_row (i : Instr) : ∃ row ∈ opcodeTable, row.mnemonic = i.mnemonic ∧
    ∀ row' ∈ opcodeTable, row'.mnemonic = i.mnemonic → row' = row := by
  cases i <;> simp only [Instr.mnemonic] <;> decide

/-- Settles O6: a byte matches by mnemonic, and a mnemonic has one row. -/
theorem everyByteMatchesExactlyOneRow : Obligations.EveryByteMatchesExactlyOneRow := by
  intro m b
  obtain ⟨row, hrow, hname, huniq⟩ := existsUnique_row (decode m b)
  exact ⟨row, hrow, (matchesByte_iff_mnemonic m b hrow).2 hname, hname,
    fun row' hrow' hmatch => huniq row' hrow' ((matchesByte_iff_mnemonic m b hrow').1 hmatch)⟩

/-! ### What moves the engine -/

theorem tickBegin_engine (s : State) : (tickBegin s).engine = s.engine := by
  obtain ⟨-, -, -, heq⟩ | ⟨-, -, heq⟩ | ⟨-, heq⟩ := tickBegin_cases s <;> rw [heq] <;> rfl

theorem engine_of_processEnd {s t : State} (ht : processEnd s = .next t) : t.engine = s.engine := by
  obtain ⟨-, m, heq⟩ | ⟨-, -, heq⟩ := processEnd_cases s <;> cases heq.symm.trans ht
  rfl

theorem engine_of_tickEnd {s t : State} (ht : tickEnd s = .next t) : t.engine = s.engine := by
  obtain ⟨-, heq⟩ | ⟨-, heq⟩ := tickEnd_cases s <;> cases heq.symm.trans ht <;> rfl

theorem hostSend_engine (b : Byte) (s : State) : (hostSend b s).engine = s.engine := by
  obtain ⟨-, heq⟩ | ⟨-, heq⟩ := hostSend_cases b s <;> rw [heq]

/-- A core step that moves the engine interprets a byte (R90). -/
theorem byte_of_coreStep_moves_engine {s t : State} (ht : coreStep s = .next t) (hne : t.engine ≠ s.engine) :
    s.transport.phase = .processing ∧ s.transport.chunk ≠ [] := by
  obtain ⟨-, heq⟩ | ⟨b, bs, hp, hc, -⟩ | ⟨-, -, heq⟩ | ⟨-, heq⟩ := coreStep_cases s
  · cases heq.symm.trans ht
    exact absurd (tickBegin_engine s) hne
  · exact ⟨hp, by simp [hc]⟩
  · exact absurd (engine_of_processEnd (heq.symm.trans ht)) hne
  · exact absurd (engine_of_tickEnd (heq.symm.trans ht)) hne

/-- An event that moves the engine resets, and a reset goes to Idle (R119, R120). -/
theorem reset_of_takeEvent_moves_engine {e : Lifecycle} {s : State} (hne : (takeEvent e s).engine ≠ s.engine) :
    eventResets s.cfg e = true ∧ (takeEvent e s).engine = .idle := by
  obtain ⟨hres, heq⟩ | ⟨-, heq⟩ := takeEvent_cases e s
  · exact ⟨hres, by rw [heq, engineReset_state]⟩
  · exact absurd (congrArg State.engine heq) hne

/-- Settles O35, by whose turn it is: the environment's own moves leave the engine alone. -/
theorem onlyBytesAndResetsMoveTheEngine : Obligations.OnlyBytesAndResetsMoveTheEngine := by
  intro s t ht hne
  rw [step] at ht
  cases hturn : nextTurn s.env <;> rw [hturn] at ht
  case core => exact .inl ⟨rfl, byte_of_coreStep_moves_engine (s := takeTurn s) ht hne⟩
  case event e =>
    cases ht
    exact .inr ⟨e, rfl, reset_of_takeEvent_moves_engine (s := takeTurn s) hne⟩
  case rx b =>
    cases ht
    exact absurd (hostSend_engine b (takeTurn s)) hne
  case link | ready | receive | elapse => cases ht; exact absurd rfl hne

end Sys2Proof.Machine
end

section
/-! PROOF. The obligations about the Signal Layer (spec/40_signal_layer.md): a masked write, the output enable and what
the bus shows of it, the sample of a BITBANG, and the pins a shift burst moves. -/

namespace Sys2Proof.Machine

/-! ### A masked write -/

/-- Bit by bit, a masked write takes the value inside the mask and keeps the latch outside it (R69). -/
theorem pinWrite_outLatch_getLsbD (m v : Levels) (s : State) (i : Nat) :
    (pinWrite m v s).pins.outLatch.getLsbD i =
      if m.getLsbD i then v.getLsbD i else s.pins.outLatch.getLsbD i := by
  rw [pinWrite_outLatch]
  by_cases hi : i < 5
  · simp only [BitVec.getLsbD_or, BitVec.getLsbD_and, BitVec.getLsbD_not, hi]
    cases m.getLsbD i <;> simp
  · simp [BitVec.getLsbD_of_ge _ _ (Nat.not_lt.1 hi)]

/-- Settles O22: the write is a record update of the latch and the trace, and its latch is the masked one. -/
theorem pinWriteChangesExactlyTheMaskedBits : Obligations.PinWriteChangesExactlyTheMaskedBits :=
  fun m v s => ⟨pinWrite_outLatch_getLsbD m v s, rfl⟩

/-! ### The output enable -/

/-- A change writes `oe`, then the gate of the output mode, then tells the indicator (R74). -/
theorem setOutputEnable_of_ne {e : Bool} {s : State} (h : e ≠ s.pins.oe) :
    setOutputEnable e s = indicator e (gateOutputs e (writeOe e s)) := if_neg h

theorem gateOutputs_aux {s : State} (e : Bool) (h : s.cfg.oeMode = .aux) :
    gateOutputs e s = delay .oeSettle (auxWrite (auxLevelFor s.cfg e) s) := by rw [gateOutputs, h]

theorem gateOutputs_direct {s : State} (e : Bool) (h : s.cfg.oeMode = .direct) :
    gateOutputs e s = setDir e s := by rw [gateOutputs, h]

/-- Settles O24: without a change nothing is run; with one, the gate is the enable pin's or the direction's, by the
output mode, and each write is a record update that logs its event. -/
theorem setOutputEnableIsDebounced : Obligations.SetOutputEnableIsDebounced := by
  intro e s
  refine ⟨?_, fun hne hm => ?_, fun hne hm => ?_⟩
  · rintro rfl
    exact setOutputEnable_same s
  · rw [setOutputEnable_of_ne hne, gateOutputs_aux (s := writeOe e s) e hm]
    simp [indicator, delay, auxWrite, writeOe, logEvent, auxLevelFor]
  · rw [setOutputEnable_of_ne hne, gateOutputs_direct (s := writeOe e s) e hm]
    simp [indicator, setDir, writeOe, logEvent]

/-- A change opens or shuts the gate itself, so the signals drive or float by the new output enable, whatever the gate
was before (R23, R74). -/
theorem drives_setOutputEnable_of_ne {e : Bool} {s : State} (h : e ≠ s.pins.oe) :
    drives (setOutputEnable e s) = e := by
  cases hm : s.cfg.oeMode with
  | aux => cases e <;> simp [drives, auxAfter, hm, h]
  | direct => simp [drives, dirAfter, hm, h]

/-- Settles O26: after a change the bus is driven exactly if the output was enabled, and the latch is the old one. -/
theorem enableChangeShowsTheOldLatchOrFloats : Obligations.EnableChangeShowsTheOldLatchOrFloats := by
  intro e s hne i
  rw [bus, drives_setOutputEnable_of_ne hne, setOutputEnable_outLatch]

/-! ### A BITBANG under LOOP -/

/-- A reading BITBANG samples before its only write, so a LOOP sample reports the old data-out level (R75, R126). -/
theorem echoes_bitbang {wired : Prop} (o : Bool) (p : Levels) (s : State)
    (hwired : wired → answerAt s.env 0 = bothInputs (dataOut s)) :
    Echoes wired s (countByte (afterBitbang true o p s))
      (oeEvents s.cfg s.pins.oe o ++ [.s2 (answerAt s.env 0), .dly .bbSetup, .w 0b11111#5 p])
      [if dataOut s then 0x03#8 else 0x00#8] := by
  obtain ⟨hoe, hlevel⟩ := loop_oeEvents s.cfg s.pins.oe o (dataOut s)
  have hreply : ∀ b : Bool, zext8 (bothInputs b) = if b then 0x03#8 else 0x00#8 := by decide
  have hloop : loopTrace (dataOut s)
      (oeEvents s.cfg s.pins.oe o ++ [.s2 (answerAt s.env 0), .dly .bbSetup, .w 0b11111#5 p]) = true ↔
        answerAt s.env 0 = bothInputs (dataOut s) := by
    rw [loopTrace_append, hoe, hlevel]
    simp [loopTrace, loopEvent]
  refine ⟨List.append_assoc .., ?_, fun h => ?_, fun hw => hloop.2 (hwired hw)⟩
  · rw [List.foldl_append, hlevel]
    rfl
  · simp [countByte, afterBitbang, hloop.1 h, hreply]

/-- LOOP's answer to a BITBANG is the data-out level before it (log 16). -/
theorem answerAt_wireLoop_bitbang (r o : Bool) (p : Levels) (s : State) :
    answerAt (wireLoop (.bitbang r o p) s).env 0 = bothInputs (dataOut s) := rfl

/-- Settles O19: with any answers the byte reports the old level if its events are those of LOOP, and with the answer
of log 16 they are. -/
theorem loopbackSampleShowsTheLevelBefore : Obligations.LoopbackSampleShowsTheLevelBefore := by
  intro o p s hs
  have hdec := decode_encode_bitbang true o p
  constructor
  · have hech := echoes_bitbang (wired := False) o p s False.elim
    exact ⟨_, _, engineByte_bitbang hs hdec, hech.trace, rfl, hech.level, hech.out⟩
  · have hech := (echoes_bitbang (wired := True) o p (wireLoop (.bitbang true o p) s)
      fun _ => answerAt_wireLoop_bitbang true o p s).of_wireLoop
    refine ⟨_, _, ?_, hech.trace, hech.loop trivial⟩
    rw [engineByteLoop, hs, Engine.mode, hdec, engineByte_bitbang (s := wireLoop _ s) hs hdec]

/-! ### The pins of a burst -/

/-- The pins after a byte is shifted out: the clock low, data-out at the byte's bit 7 (R76). -/
def pinsAfterShift (d : Byte) (p : Pins) : Pins :=
  { p with outLatch := (p.outLatch &&& 0b01110#5) ||| doutLevel d 7 }

theorem afterDataByte_pins (d : Byte) (k : BurstLen) (c : Bool) (s : State) :
    (afterDataByte d k c s).pins = pinsAfterShift d s.pins := rfl

/-- Of two bytes shifted out, the pins show the last one alone. -/
theorem pinsAfterShift_pinsAfterShift (d e : Byte) (p : Pins) :
    pinsAfterShift e (pinsAfterShift d p) = pinsAfterShift e p := by
  simp only [pinsAfterShift]
  rw [doutLevel_mask d 7, latch_fold]

/-- A header only forces the clock low, which a byte shifted out does too (R85). -/
theorem pinsAfterShift_header (d : Byte) (c : Bool) {n : BurstLen} (hn : n ≠ 0#6) (s : State) :
    pinsAfterShift d (afterShiftHeader c n s).pins = pinsAfterShift d s.pins := by
  have hclk : (0b11110#5 &&& 0b01110#5 : Levels) = 0b01110#5 := by decide
  simp only [pinsAfterShift, afterShiftHeader, if_pos (Or.inl hn), BitVec.and_assoc, hclk]

/-- The signals of the latch after a byte is shifted out (R19, R76). -/
theorem pinsAfterShift_levels (d : Byte) (p : Pins) :
    (pinsAfterShift d p).outLatch.getLsbD 0 = false ∧
    (pinsAfterShift d p).outLatch.getLsbD 4 = d.getLsbD 7 ∧
    ∀ i, 1 ≤ i → i ≤ 3 → (pinsAfterShift d p).outLatch.getLsbD i = p.outLatch.getLsbD i := by
  simp only [pinsAfterShift, doutLevel]
  refine ⟨?_, ?_, fun i hlo hhi => ?_⟩
  · cases d.getLsbD 7 <;> simp
  · cases d.getLsbD 7 <;> simp
  · interval_cases i <;> cases d.getLsbD 7 <;> simp

/-- A burst with a last byte is not empty (R64). -/
theorem burstLen_ne_zero {ds : List Byte} {d : Byte} {n : BurstLen} (hn : (ds ++ [d]).length = n.toNat) :
    n ≠ 0#6 := by
  rintro rfl
  simp at hn

/-- The data bytes of a burst with `n` due leave the pins as the last of them alone would. -/
theorem burst_pins (c : Bool) (d : Byte) : ∀ (ds : List Byte) (n : BurstLen) (s : State),
    s.engine = afterShift .idle c n → (ds ++ [d]).length = n.toNat →
    ∃ t, engineBytes (ds ++ [d]) s = .next t ∧ t.pins = pinsAfterShift d s.pins := by
  intro ds
  induction ds with
  | nil =>
    intro n s hs hn
    rw [afterShift, if_neg (burstLen_ne_zero hn)] at hs
    exact ⟨_, by rw [List.nil_append, engineBytes_cons, engineByte_data hs]; rfl, rfl⟩
  | cons e ds ih =>
    intro n s hs hn
    rw [afterShift, if_neg (burstLen_ne_zero hn)] at hs
    rw [List.cons_append, List.length_cons] at hn
    obtain ⟨t, ht, hpins⟩ := ih (n - 1#6) (countByte (afterDataByte e n c s))
      (afterData_eq_afterShift n c) (by bv_omega)
    refine ⟨t, by rw [List.cons_append, engineBytes_cons, engineByte_data hs, andThen_next, ht], ?_⟩
    rw [hpins, countByte_pins, afterDataByte_pins, pinsAfterShift_pinsAfterShift]

/-- Settles O17: header and data bytes together leave the pins as the last data byte alone would. -/
theorem burstMovesOnlyClockAndDataOut : Obligations.BurstMovesOnlyClockAndDataOut := by
  intro c n ds d s hs hn
  obtain ⟨t, ht, hpins⟩ := burst_pins c d ds n (countByte (afterShiftHeader c n s))
    (congrArg (afterShift · c n) hs) hn
  rw [countByte_pins, pinsAfterShift_header d c (burstLen_ne_zero hn)] at hpins
  obtain ⟨hclk, hdout, hkept⟩ := pinsAfterShift_levels d s.pins
  refine ⟨t, ?_, ?_⟩
  · rw [engineBytes_cons, engineByte_shift hs (decode_encode_shift c n), andThen_next, ht]
  · rw [hpins]
    exact ⟨hclk, hdout, hkept, rfl, rfl, rfl⟩

end Sys2Proof.Machine
end

section
/-! PROOF. The obligations about the Protocol Engine (spec/41_protocol_engine.md): what each of the three instructions
does and leaves alone, how many bytes it emits, a whole call of `process`, a burst, the engine's transitions, and the
step that runs a byte. -/

namespace Sys2Proof.Machine

/-! ### What an instruction emits and leaves alone -/

theorem emitted_afterBitbang (r o : Bool) (p : Levels) (s : State) :
    Emitted s (afterBitbang r o p s) (if r then [zext8 (answerAt s.env 0)] else []) :=
  ⟨rfl, rfl, rfl, rfl⟩

theorem emitted_afterShiftHeader (c : Bool) (n : BurstLen) (s : State) : Emitted s (afterShiftHeader c n s) [] :=
  ⟨rfl, by simp [afterShiftHeader], rfl, rfl⟩

theorem emitted_afterDataByte (d : Byte) (k : BurstLen) (c : Bool) (s : State) :
    Emitted s (afterDataByte d k c s) (if c then [(shiftExchange d s).1] else []) :=
  ⟨rfl, rfl, rfl, rfl⟩

theorem Emitted.refl (s : State) : Emitted s s [] := ⟨rfl, by simp, rfl, rfl⟩

/-- The cursor is none of what a run of the engine keeps or emits. -/
theorem Emitted.countByte {s t : State} {outs : List Byte} (h : Emitted s t outs) :
    Emitted s (Machine.countByte t) outs := { h with }

theorem Emitted.out {s t : State} {outs : List Byte} (h : Emitted s t outs) :
    t.transport.out = s.transport.out ++ outs := congrArg Transport.out h.transport

/-- A run that only emits stays in the frame of an instruction, if it leaves the guard and the cursor alone too. -/
theorem Emitted.frame {s t : State} {outs : List Byte} (h : Emitted s t outs)
    (hinit : t.pins.initDone = s.pins.initDone) (hcursor : t.logs.consumed = s.logs.consumed) : EngineFrame s t where
  cfg := h.cfg
  initDone := hinit
  phase := by rw [h.transport]
  chunk := by rw [h.transport]
  acc a := by rw [h.transport]
  accLen := by rw [h.transport]
  lastFlush := by rw [h.transport]
  txlog := h.txlog
  consumed := hcursor
  rxq := by rw [h.env]
  linkActive := by rw [h.env]
  txReady := by rw [h.env]
  rxTake := by rw [h.env]
  now := by rw [h.env]
  turns := by rw [h.env]
  turnNo := by rw [h.env]

/-! ### The three instructions -/

/-- Settles O8: the record of BITBANG, read off field by field; the sample is the answer that comes next. -/
theorem bitbangSetsOutputEnableThenSamplesThenWrites : Obligations.BitbangSetsOutputEnableThenSamplesThenWrites := by
  intro r o p s hs
  have hbyte : zext8 (answerAt s.env 0) = BitVec.ofNat 8 (answerAt s.env 0).toNat := (BitVec.ofNat_toNat _ _).symm
  have hemit := emitted_afterBitbang r o p s
  refine ⟨_, execBitbang_eq r o p s, hemit.frame rfl rfl, hs, rfl, rfl, rfl, rfl, hbyte ▸ hemit.out, rfl, fun k => ?_⟩
  rw [Nat.add_comm]
  exact answerAt_afterSamples s.env 1 k

/-- Forcing the clock low clears bit 0 of the latch and no other (R19, R85). -/
theorem getLsbD_clockLow (l : Levels) (i : Nat) :
    (l &&& 0b11110#5).getLsbD i = (decide (i ≠ 0) && l.getLsbD i) := by
  by_cases hi : i < 5
  · rw [BitVec.getLsbD_and]
    interval_cases i <;> simp
  · simp [BitVec.getLsbD_of_ge _ _ (Nat.not_lt.1 hi)]

/-- Settles O9: the record of SHIFT, by whether the clock is forced low. -/
theorem shiftForcesClockLowAndStartsTheBurst : Obligations.ShiftForcesClockLowAndStartsTheBurst := by
  intro c n s hs
  have hengine : (afterShiftHeader c n s).engine = if n = 0#6 then .idle else .shiftActive n c :=
    congrArg (afterShift · c n) hs
  refine ⟨_, execShift_eq c n s, (emitted_afterShiftHeader c n s).frame rfl rfl, hengine, rfl, rfl, rfl, rfl, rfl, ?_⟩
  by_cases hlow : n ≠ 0#6 ∨ s.cfg.zeroLenClkLow = true
  · simp only [afterShiftHeader, if_pos hlow, getLsbD_clockLow, and_true, implies_true]
  · simp only [afterShiftHeader, if_neg hlow, List.append_nil, and_true]

theorem afterData_last (c : Bool) : afterData 1#6 c = .idle := if_pos rfl

theorem afterData_of_ne_one {k : BurstLen} (c : Bool) (hk : k ≠ 1#6) :
    afterData k c = .shiftActive (k - 1#6) c := if_neg hk

/-- Settles O10: the record of DATA; its result bit by bit, its count by whether the byte is the last, and its pins as
any byte shifted out leaves them. -/
theorem dataShiftsItsByteAndCountsDown : Obligations.DataShiftsItsByteAndCountsDown := by
  intro d s k c hs hk
  have hemit := emitted_afterDataByte d k c s
  obtain ⟨hclk, hdout, hkept⟩ := pinsAfterShift_levels d s.pins
  refine ⟨_, _, execData_eq hs, hemit.frame rfl rfl, shiftExchange_bit d s, hemit.out, fun hlast => ?_, fun hmore => ?_,
    rfl, rfl, rfl, hdout, hclk, hkept, rfl, rfl, fun j => ?_⟩
  · rw [hlast]
    exact afterData_last c
  · exact ⟨k - 1#6, afterData_of_ne_one c hmore, by bv_omega⟩
  · rw [Nat.add_comm]
    exact answerAt_afterSamples s.env 8 j

/-! ### Output bytes and the cursor -/

theorem length_ite_singleton {α : Type} (c : Bool) (a : α) :
    (if c then [a] else []).length = if c then 1 else 0 := by
  cases c <;> rfl

/-- An instruction that answers a next state emits as many bytes as R87 counts. -/
theorem exec_emitted {i : Instr} {s t : State} (ht : exec i s = .next t) :
    ∃ outs, Emitted s t outs ∧ outs.length = outputCount s.engine i := by
  obtain ⟨r, o, p, rfl, heq⟩ | ⟨c, n, rfl, heq⟩ | ⟨d, k, c, rfl, hs, heq⟩ | ⟨d, rfl, -, heq⟩ := exec_cases i s <;>
    cases heq.symm.trans ht
  · exact ⟨_, emitted_afterBitbang r o p s, length_ite_singleton r _⟩
  · exact ⟨_, emitted_afterShiftHeader c n s, rfl⟩
  · refine ⟨_, emitted_afterDataByte d k c s, ?_⟩
    rw [hs]
    exact length_ite_singleton c _

/-- Settles O13: what each instruction emits has the length that R87 gives. -/
theorem eachInstructionEmitsItsCount : Obligations.EachInstructionEmitsItsCount := by
  intro i s t ht
  obtain ⟨outs, hemit, hlen⟩ := exec_emitted ht
  exact ⟨outs, hemit.out, hlen⟩

/-- A call counts each of its bytes once (R18, R81). -/
theorem engineBytes_consumed {bs : List Byte} {s t : State} (ht : engineBytes bs s = .next t) :
    t.logs.consumed = s.logs.consumed + bs.length := by
  induction bs generalizing s with
  | nil => cases ht; rfl
  | cons b bs ih =>
    obtain ⟨u, hu, hrest⟩ := andThen_eq_next.1 ht
    rw [ih hrest, (extends_engineByte hu).consumed, List.length_cons, Nat.add_assoc, Nat.add_comm 1]

/-- Settles O14: every byte completes, emits at most one byte and is counted once. -/
theorem processCompletesWithinItsOutputBound : Obligations.ProcessCompletesWithinItsOutputBound := by
  intro bs s
  obtain ⟨t, outs, ht, hemit, hlen⟩ := engineBytes_emitted bs s
  exact ⟨t, outs, ht, hemit.out, hlen, engineBytes_consumed ht⟩

/-- The data bytes of a burst with `n` due end it, and each emits one byte if the burst captures (R84, R87). -/
theorem burst_emits (c : Bool) : ∀ (ds : List Byte) (n : BurstLen) (s : State),
    s.engine = afterShift .idle c n → ds.length = n.toNat →
    ∃ t outs, engineBytes ds s = .next t ∧ t.engine = .idle ∧ Emitted s t outs ∧
      outs.length = if c then ds.length else 0 := by
  intro ds
  induction ds with
  | nil =>
    intro n s hs hn
    have hzero : n = 0#6 := BitVec.eq_of_toNat_eq hn.symm
    exact ⟨s, [], rfl, by rw [hs, afterShift, if_pos hzero], Emitted.refl s, (ite_self 0).symm⟩
  | cons d ds ih =>
    intro n s hs hn
    rw [List.length_cons] at hn
    have hne : n ≠ 0#6 := by rintro rfl; simp at hn
    rw [afterShift, if_neg hne] at hs
    obtain ⟨t, outs, ht, hidle, hemit, hlen⟩ :=
      ih (n - 1#6) (countByte (afterDataByte d n c s)) (afterData_eq_afterShift n c) (by bv_omega)
    refine ⟨t, _, ?_, hidle, (emitted_afterDataByte d n c s).countByte.trans hemit, ?_⟩
    · rw [engineBytes_cons, engineByte_data hs, andThen_next, ht]
    · rw [List.length_append, length_ite_singleton, hlen, List.length_cons]
      cases c
      · rfl
      · exact Nat.add_comm 1 ds.length

/-- Settles O16: the header makes all the data bytes due and emits nothing, and they end the burst. -/
theorem burstEmitsOneByteForEachDataByte : Obligations.BurstEmitsOneByteForEachDataByte := by
  intro c n ds s hs _ hn
  obtain ⟨t, outs, ht, hidle, hemit, hlen⟩ := burst_emits c ds n (countByte (afterShiftHeader c n s))
    (congrArg (afterShift · c n) hs) hn
  have hrun : engineBytes (encode (.shift c n) :: ds) s = .next t := by
    rw [engineBytes_cons, engineByte_shift hs (decode_encode_shift c n), andThen_next, ht]
  refine ⟨t, outs, hrun, hidle, ((emitted_afterShiftHeader c n s).countByte.trans hemit).out, hn ▸ hlen, ?_⟩
  rw [engineBytes_consumed hrun, List.length_cons, hn, Nat.add_assoc, Nat.add_comm 1]

/-! ### The engine's transitions -/

theorem decode_idle_of_bit7_clear {b : Byte} (h : b.getLsbD 7 = false) : decode .idle b = decodeBitbang b := by
  rw [decode, if_neg (by rw [h]; decide)]

/-- The flag and the length of a header byte (R60, R62). -/
theorem decode_idle_of_bit7_set {b : Byte} (h : b.getLsbD 7 = true) :
    decode .idle b = .shift (b.getLsbD 6) (BitVec.ofNat 6 b.toNat) := by
  rw [decode, if_pos h]
  rfl

theorem burstLen_ofNat_eq_zero_iff (k : Nat) : BitVec.ofNat 6 k = 0#6 ↔ k % 64 = 0 := by
  rw [← BitVec.toNat_inj, BitVec.toNat_ofNat]
  rfl

/-- Settles O20: each row by the run of its byte, and the last one by the record of a reset. -/
theorem engineFollowsItsTransitionTable : Obligations.EngineFollowsItsTransitionTable := by
  refine ⟨fun b s hs hb => ?_, fun b s hs hb => ?_, fun b s k c hs hk => ?_, fun b s c hs => ?_, fun s => ?_⟩
  · exact ⟨_, engineByte_bitbang hs (decode_idle_of_bit7_clear hb), hs⟩
  · refine ⟨_, engineByte_shift hs (decode_idle_of_bit7_set hb), ?_⟩
    simp only [countByte_engine, afterShiftHeader, afterShift, hs, burstLen_ofNat_eq_zero_iff]
  · have hne : k ≠ 1#6 := by rintro rfl; exact absurd hk (by decide)
    have hrest : k - 1#6 = BitVec.ofNat 6 (k.toNat - 1) := by bv_omega
    exact ⟨_, engineByte_data hs, hrest ▸ afterData_of_ne_one c hne⟩
  · exact ⟨_, engineByte_data hs, afterData_last c⟩
  · rw [engineReset_state]

/-! ### The step that runs a byte -/

/-- Inside `process` a core step takes the first byte of the chunk (R81). -/
theorem coreStep_of_byte {s : State} {b : Byte} {bs : List Byte} (hp : s.transport.phase = .processing)
    (hc : s.transport.chunk = b :: bs) : coreStep s = engineByte b (setChunk bs s) := by
  rw [coreStep, hp, hc]

/-- With the turn at the core loop, the step runs the first byte of the chunk and counts it (R81, R83). -/
theorem step_of_byte {s : State} {b : Byte} {bs : List Byte} (hturn : nextTurn s.env = .core)
    (hp : s.transport.phase = .processing) (hc : s.transport.chunk = b :: bs) :
    step s = andThen (exec (decode s.engine.mode b) (setChunk bs (takeTurn s))) (fun t => .next (countByte t)) := by
  rw [step_of_turn hturn]
  exact coreStep_of_byte (s := takeTurn s) hp hc

/-- A table word of 8 bits is one byte, its low 8 bits (R54). -/
theorem tableBytes_eight (w : Nat) : tableBytes 8 w = [BitVec.ofNat 8 w] := by
  have hmod : BitVec.ofNat 8 (w % 2 ^ 8) = BitVec.ofNat 8 w := BitVec.eq_of_toNat_eq (by simp)
  rw [tableBytes, hmod]

/-- withFetchWord puts the word's byte first in the chunk (log 9). -/
theorem withFetchWord_chunk (s : State) (w : Nat) :
    (s.withFetchWord 8 w).transport.chunk = BitVec.ofNat 8 w :: s.transport.chunk.tail :=
  congrArg (· ++ s.transport.chunk.tail) (tableBytes_eight w)

/-- Settles O12: the step that runs a byte, and the same where withFetchWord has placed the byte. -/
theorem stepRunsTheDecodedByte : Obligations.StepRunsTheDecodedByte :=
  ⟨fun _ _ _ => step_of_byte, fun s w => step_of_byte rfl rfl (withFetchWord_chunk s w)⟩

end Sys2Proof.Machine
end

section
/-! PROOF. The obligations about the Transport Adapter (spec/42_transport.md): the beginning of a tick, the end of
`process`, when a flush is due and what it sends, what all of that keeps from step to step, and the core steps of a tick
against the service tick of R91. -/

namespace Sys2Proof.Machine

/-! ### The core loop's turn, place by place -/

theorem coreStep_betweenTicks {s : State} (hp : s.transport.phase = .betweenTicks) :
    coreStep s = .next (tickBegin s) := by
  rw [coreStep, hp]

theorem coreStep_endOfProcess {s : State} (hp : s.transport.phase = .processing) (hc : s.transport.chunk = []) :
    coreStep s = processEnd s := by
  rw [coreStep, hp, hc]

theorem coreStep_flushing {s : State} (hp : s.transport.phase = .flushing) : coreStep s = tickEnd s := by
  rw [coreStep, hp]

section
variable {s : State} (hturn : nextTurn s.env = .core)
include hturn

theorem step_betweenTicks (hp : s.transport.phase = .betweenTicks) : step s = .next (tickBegin (takeTurn s)) :=
  (step_of_turn hturn).trans (coreStep_betweenTicks (s := takeTurn s) hp)

theorem step_endOfProcess (hp : s.transport.phase = .processing) (hc : s.transport.chunk = []) :
    step s = processEnd (takeTurn s) :=
  (step_of_turn hturn).trans (coreStep_endOfProcess (s := takeTurn s) hp hc)

theorem step_flushing (hp : s.transport.phase = .flushing) : step s = tickEnd (takeTurn s) :=
  (step_of_turn hturn).trans (coreStep_flushing (s := takeTurn s) hp)

end

/-! ### The beginning of a tick -/

theorem tickBegin_of_link_down {s : State} (hlink : s.env.linkActive = false) : tickBegin s = dropOutput s := by
  simp [tickBegin, hlink]

theorem tickBegin_of_mayRead {s : State} (hlink : s.env.linkActive = true) (hread : mayRead s = true) :
    tickBegin s = readChunk (chunkSize s) s := by
  simp [tickBegin, hlink, hread]

theorem tickBegin_of_not_mayRead {s : State} (hlink : s.env.linkActive = true) (hread : mayRead s = false) :
    tickBegin s = setPhase .flushing s := by
  simp [tickBegin, hlink, hread]

/-- The read guard is false with an empty FIFO or a backlog above the gate (R93). -/
theorem mayRead_eq_false_iff (s : State) : mayRead s = false ↔ s.env.rxq = [] ∨ 64 < s.transport.accLen := by
  rw [Bool.eq_false_iff, Ne, mayRead_iff, not_and_or, not_not, Nat.not_le, readGate]

/-- A draw in the range of R93 is the size of the chunk. -/
theorem chunkSize_eq_rxTake {s : State} (hpos : 1 ≤ s.env.rxTake) (hmax : s.env.rxTake ≤ 64)
    (hlen : s.env.rxTake ≤ s.env.rxq.length) : chunkSize s = s.env.rxTake := by
  rw [chunkSize, chunkMax, min_eq_left (le_min hmax hlen), max_eq_right hpos]

/-- Settles O36: the tick is the drop, which empties the accumulator. -/
theorem inactiveLinkDropsPendingOutput : Obligations.InactiveLinkDropsPendingOutput := by
  intro s hturn hp hlink
  have ht : step s = .next (dropOutput (takeTurn s)) := by
    rw [step_betweenTicks hturn hp, tickBegin_of_link_down (s := takeTurn s) hlink]
  exact ⟨_, ht, rfl, fun _ => rfl, hp, rfl, rfl, rfl, rfl, rfl, rfl, rfl, rfl⟩

/-- Settles O37, by the read guard: a chunk in the range of R93, or steps 3 and 4. -/
theorem tickReadsOneChunkInOrderOrNothing : Obligations.TickReadsOneChunkInOrderOrNothing := by
  refine ⟨fun s hturn hp hlink hrx hgate => ?_, fun s hturn hp hlink hshut => ?_⟩
  · have hread : mayRead (takeTurn s) = true := (mayRead_iff _).2 ⟨hrx, hgate⟩
    obtain ⟨hpos, hmax, hlen⟩ := chunkSize_range (s := takeTurn s) hrx
    have ht : step s = .next (readChunk (chunkSize (takeTurn s)) (takeTurn s)) := by
      rw [step_betweenTicks hturn hp, tickBegin_of_mayRead (s := takeTurn s) hlink hread]
    exact ⟨_, _, ht, hpos, hmax, hlen, chunkSize_eq_rxTake (s := takeTurn s), rfl, rfl,
      List.length_take_of_le hlen, List.take_append_drop _ _, rfl, fun _ => rfl, rfl, rfl, rfl, rfl, rfl, rfl⟩
  · have hread : mayRead (takeTurn s) = false := (mayRead_eq_false_iff _).2 hshut
    rw [step_betweenTicks hturn hp, tickBegin_of_not_mayRead (s := takeTurn s) hlink hread]
    rfl

/-! ### The end of `process` -/

theorem length_accBytes {s : State} (h : AccFilled s) : (accBytes s).length = s.transport.accLen :=
  (List.length_map _).trans (Memory.length_of_filled h)

/-- Settles O39: there is room for the output, and the filled accumulator reads as its bytes with the output behind. -/
theorem outputEntersTheAccumulatorInOrder : Obligations.OutputEntersTheAccumulatorInOrder := by
  intro s h hturn hp hc
  obtain ⟨m, ht, hfilled, hbytes⟩ := processEnd_filled (inv_takeTurn h).accFilled (room_of_inv (inv_takeTurn h) hp)
  have hlen := length_accBytes h.accFilled
  have hread (a : Nat) : Memory.read? m a = (accBytes s ++ s.transport.out)[a]? := by
    rw [Memory.read?_filled hfilled, hbytes]
    rfl
  refine ⟨_, (step_endOfProcess hturn hp hc).trans ht, fun a ha => ?_, fun k _ => ?_, fun a ha => ?_,
    rfl, rfl, hc, rfl, rfl, rfl, rfl, rfl, rfl, rfl⟩
  · exact (hread a).trans ((List.getElem?_append_left (hlen ▸ ha)).trans (Memory.read?_filled h.accFilled a).symm)
  · refine (hread _).trans ?_
    rw [← hlen, List.getElem?_append_right (Nat.le_add_right _ _), Nat.add_sub_cancel_left]
  · refine (hread a).trans (List.getElem?_eq_none ?_)
    rwa [List.length_append, hlen]

/-! ### When a flush is due -/

theorem elapsed_unbounded {c : Config} (h : c.timerBits = none) (t last : Nat) : elapsed c t last = t - last := by
  rw [elapsed, h]

theorem elapsed_wrapping {c : Config} {w : Nat} (h : c.timerBits = some w) (t last : Nat) :
    elapsed c t last = (((t : Int) - (last : Int)) % (2 ^ w : Int)).toNat := by
  rw [elapsed, h]

theorem timerRead_unbounded {s : State} (h : s.cfg.timerBits = none) : timerRead s = s.env.now := by
  rw [timerRead, h]

theorem timerRead_wrapping {s : State} {w : Nat} (h : s.cfg.timerBits = some w) :
    timerRead s = s.env.now % 2 ^ w := by
  rw [timerRead, h]

/-- Settles O41: the wraps of the two readings cancel modulo `2^w`, and the difference is below that. -/
theorem elapsedTimeIsRightAcrossAWrap : Obligations.ElapsedTimeIsRightAcrossAWrap := by
  intro c w a b hw hle hlt
  have hdiff : (((b % 2 ^ w : Nat) : Int) - ((a % 2 ^ w : Nat) : Int)) % (2 ^ w : Int) = ((b - a : Nat) : Int) :=
    calc (((b % 2 ^ w : Nat) : Int) - ((a % 2 ^ w : Nat) : Int)) % (2 ^ w : Int)
      _ = ((b : Int) - (a : Int)) % (2 ^ w : Int) := by push_cast; exact (Int.sub_emod _ _ _).symm
      _ = (((b - a) % 2 ^ w : Nat) : Int) := by push_cast [hle]; rfl
      _ = ((b - a : Nat) : Int) := by rw [Nat.mod_eq_of_lt hlt]
  rw [elapsed_wrapping hw, hdiff, Int.toNat_natCast]

/-- Settles O40: the condition in numbers, with the elapsed time of each kind of timer; the last clause by O41. -/
theorem flushIsDueBySizeOrByTime : Obligations.FlushIsDueBySizeOrByTime := by
  refine fun s => ⟨fun hnone => ?_, fun w hw => ?_, fun w f hw hlast hle hlt => ?_⟩ <;> rw [flushDue_iff]
  · rw [elapsed_unbounded hnone, timerRead_unbounded hnone]
  · rw [elapsed_wrapping hw, timerRead_wrapping hw, Int.lt_toNat]
    rfl
  · rw [timerRead_wrapping hw, hlast, elapsedTimeIsRightAcrossAWrap s.cfg w f s.env.now hw hle hlt]

/-! ### The end of a tick -/

/-- Steps 3 and 4 with a due flush and a ready channel (R96 to R98). -/
theorem tickEnd_of_due {s : State} (hdue : flushDue (timerRead s) s = true) (hready : s.env.txReady = true) :
    tickEnd s = .next (setPhase .betweenTicks (compact (payloadLen s) (recordFlush (timerRead s)
      (txSend (frame s.cfg (accRead 0 (payloadLen s) s)) s)))) := by
  obtain ⟨hno, -⟩ | ⟨-, heq⟩ := tickEnd_cases s
  · simp [hdue, hready] at hno
  · exact heq

/-- Steps 3 and 4 without a due flush or without a ready channel (R95, R96). -/
theorem tickEnd_of_not_due {s : State} (hno : flushDue (timerRead s) s = false ∨ s.env.txReady = false) :
    tickEnd s = .next (setPhase .betweenTicks s) := by
  obtain ⟨-, heq⟩ | ⟨hyes, -⟩ := tickEnd_cases s
  · exact heq
  · rcases hno with hno | hno <;> simp [hno] at hyes

/-- Settles O43: without a flush the end of the tick only writes the phase. -/
theorem tickWithoutAFlushChangesNothing : Obligations.TickWithoutAFlushChangesNothing :=
  fun s hturn hp hno => (step_flushing hturn hp).trans (tickEnd_of_not_due (s := takeTurn s) hno)

/-- Settles O45: the flush is due by time, and there is no payload to read. -/
theorem idleFlushSendsTheHeaderAlone : Obligations.IdleFlushSendsTheHeaderAlone := by
  intro s hturn hp hzero htime hready
  have hdue : flushDue (timerRead s) s = true := (flushDue_iff _ _).2 (.inr htime)
  have hnone : payloadLen s = 0 := Nat.le_zero.1 (hzero ▸ payloadLen_le s)
  refine ⟨_, (step_flushing hturn hp).trans (tickEnd_of_due (s := takeTurn s) hdue hready), ?_, rfl, ?_⟩
  · change s.logs.txlog ++ [frame s.cfg (accRead 0 (payloadLen s) (takeTurn s))] = _
    rw [hnone]
    rfl
  · change s.transport.accLen - payloadLen s = 0
    rw [hzero, Nat.zero_sub]

/-- Settles O42: in a filled accumulator the frame carries the oldest bytes, and compaction leaves the others. -/
theorem flushSendsTheOldestBytes : Obligations.FlushSendsTheOldestBytes := by
  intro s h hturn hp hdue hready
  have hpayload : accRead 0 (payloadLen s) (takeTurn s) = (accBytes s).take (payloadLen s) :=
    accRead_filled (s := takeTurn s) h.accFilled (by simpa using payloadLen_le s)
  have hlen : ((accBytes s).take (payloadLen s)).length = payloadLen s :=
    List.length_take_of_le (length_accBytes h.accFilled ▸ payloadLen_le s)
  have hrest := Memory.filled_dropFront h.accFilled (payloadLen_le s)
  refine ⟨_, (accBytes s).take (payloadLen s),
    (step_flushing hturn hp).trans (tickEnd_of_due (s := takeTurn s) hdue hready), hlen, fun k hk => ?_, ?_, ?_,
    fun a => ?_, rfl, rfl, rfl, rfl, rfl, rfl, rfl, rfl, rfl, rfl⟩
  · rw [Memory.read?_filled h.accFilled, List.getElem?_take_of_lt (hlen ▸ hk)]
    rfl
  · rw [← hpayload]
    rfl
  · rw [hlen]
    rfl
  · rw [hlen, Memory.read?_filled h.accFilled, Nat.add_comm, ← List.getElem?_drop,
      ← Memory.bytes_dropFront h.accFilled]
    exact Memory.read?_filled hrest a

/-- Settles O46: at 62 unsent bytes the flush is due by size, and its payload is full. -/
theorem backlogSendsFullFrames : Obligations.BacklogSendsFullFrames := by
  intro s h hturn hp hbacklog hready
  have hdue : flushDue (timerRead s) s = true := (flushDue_iff _ _).2 (.inl (Nat.add_le_add_right hbacklog 2))
  obtain ⟨t, payload, ht, hlen, -, htx, hacc, -⟩ := flushSendsTheOldestBytes s h hturn hp hdue hready
  rw [min_eq_right hbacklog] at hlen
  exact ⟨t, _, ht, htx, congrArg (· + 2) hlen, hlen ▸ hacc⟩

/-! ### What a step keeps -/

theorem env_of_processEnd {s t : State} (ht : processEnd s = .next t) : t.env = s.env := by
  obtain ⟨-, m, heq⟩ | ⟨-, -, heq⟩ := processEnd_cases s <;> cases heq.symm.trans ht
  rfl

theorem env_of_tickEnd {s t : State} (ht : tickEnd s = .next t) : t.env = s.env := by
  obtain ⟨-, heq⟩ | ⟨-, heq⟩ := tickEnd_cases s <;> cases heq.symm.trans ht <;> rfl

theorem tickBegin_now (s : State) : (tickBegin s).env.now = s.env.now := by
  obtain ⟨-, -, -, heq⟩ | ⟨-, -, heq⟩ | ⟨-, heq⟩ := tickBegin_cases s <;> rw [heq] <;> rfl

/-- No core step moves the timer (log 3). -/
theorem now_of_coreStep {s t : State} (ht : coreStep s = .next t) : t.env.now = s.env.now := by
  obtain ⟨-, heq⟩ | ⟨b, bs, -, -, heq⟩ | ⟨-, -, heq⟩ | ⟨-, heq⟩ := coreStep_cases s <;> rw [heq] at ht
  · cases ht
    exact tickBegin_now s
  · obtain ⟨outs, hemit⟩ := engineByte_emitted ht
    rw [hemit.env, setChunk_env]
  · rw [env_of_processEnd ht]
  · rw [env_of_tickEnd ht]

theorem takeEvent_transport (e : Lifecycle) (s : State) : (takeEvent e s).transport = s.transport := by
  obtain ⟨-, heq⟩ | ⟨-, heq⟩ := takeEvent_cases e s <;> rw [heq]
  rw [engineReset_state]

theorem takeEvent_env (e : Lifecycle) (s : State) : (takeEvent e s).env = s.env := by
  obtain ⟨-, heq⟩ | ⟨-, heq⟩ := takeEvent_cases e s <;> rw [heq]
  rw [engineReset_state]

theorem hostSend_transport (b : Byte) (s : State) : (hostSend b s).transport = s.transport := by
  obtain ⟨-, heq⟩ | ⟨-, heq⟩ := hostSend_cases b s <;> rw [heq]

theorem hostSend_now (b : Byte) (s : State) : (hostSend b s).env.now = s.env.now := by
  obtain ⟨-, heq⟩ | ⟨-, heq⟩ := hostSend_cases b s <;> rw [heq]

theorem rxq_prefix_hostSend (b : Byte) (s : State) : s.env.rxq <+: (hostSend b s).env.rxq := by
  obtain ⟨-, heq⟩ | ⟨-, heq⟩ := hostSend_cases b s <;> rw [heq]
  exact List.prefix_append _ _

/-- Only the core loop writes the Transport Adapter (R33). -/
theorem transport_of_runTurn_of_ne_core {m : Turn} {s t : State} (hm : m ≠ .core) (ht : runTurn m s = .next t) :
    t.transport = s.transport := by
  cases m with
  | core => exact absurd rfl hm
  | event e => cases ht; exact takeEvent_transport e s
  | rx b => cases ht; exact hostSend_transport b s
  | link _ | ready _ | receive _ | elapse _ => cases ht; rfl

/-- Only the core loop takes bytes from the FIFO (R93). -/
theorem rxq_prefix_of_runTurn_of_ne_core {m : Turn} {s t : State} (hm : m ≠ .core) (ht : runTurn m s = .next t) :
    s.env.rxq <+: t.env.rxq := by
  cases m with
  | core => exact absurd rfl hm
  | event e => cases ht; rw [takeEvent_env]
  | rx b => cases ht; exact rxq_prefix_hostSend b s
  | link _ | ready _ | receive _ | elapse _ => cases ht; exact List.prefix_rfl

/-- A move leaves the timer alone or is the timer's own (log 3). -/
theorem now_of_runTurn {m : Turn} {s t : State} (ht : runTurn m s = .next t) :
    t.env.now = s.env.now ∨ ∃ ms, m = .elapse ms ∧ t.env.now = s.env.now + ms := by
  cases m with
  | core => exact .inl (now_of_coreStep ht)
  | event e => cases ht; exact .inl (congrArg Env.now (takeEvent_env e s))
  | rx b => cases ht; exact .inl (hostSend_now b s)
  | link _ | ready _ | receive _ => cases ht; exact .inl rfl
  | elapse ms => cases ht; exact .inr ⟨ms, rfl, rfl⟩

/-- Settles O49: a step moves the timer by the milliseconds of a turn of its own, or not at all. -/
theorem timeNeverDecreases : Obligations.TimeNeverDecreases := by
  intro s t ht
  obtain hsame | ⟨ms, hturn, hnow⟩ := now_of_runTurn (s := takeTurn s) ht
  · exact ⟨Nat.le_of_eq hsame.symm, fun hne => absurd hsame hne⟩
  · exact ⟨hnow ▸ Nat.le_add_right _ _, fun _ => ⟨ms, hturn, hnow⟩⟩

/-- A core step that neither sends a frame nor drops the output keeps every unsent byte and the flush time (R96). -/
theorem coreStep_keeps_unsent {s t : State} (ht : coreStep s = .next t) (htx : t.logs.txlog = s.logs.txlog)
    (hkeep : ¬ (s.transport.phase = .betweenTicks ∧ s.env.linkActive = false)) :
    s.transport.accLen ≤ t.transport.accLen ∧ t.transport.lastFlush = s.transport.lastFlush := by
  obtain ⟨hp, heq⟩ | ⟨b, bs, -, -, heq⟩ | ⟨-, -, heq⟩ | ⟨-, heq⟩ := coreStep_cases s <;> rw [heq] at ht
  · cases ht
    obtain ⟨-, -, -, hbegin⟩ | ⟨-, -, hbegin⟩ | ⟨hdown, -⟩ := tickBegin_cases s
    · exact hbegin ▸ ⟨Nat.le_refl _, rfl⟩
    · exact hbegin ▸ ⟨Nat.le_refl _, rfl⟩
    · exact absurd ⟨hp, hdown⟩ hkeep
  · obtain ⟨outs, hemit⟩ := engineByte_emitted ht
    rw [hemit.transport]
    exact ⟨Nat.le_refl _, rfl⟩
  · obtain ⟨-, m, hend⟩ | ⟨-, -, hend⟩ := processEnd_cases s <;> cases hend.symm.trans ht
    exact ⟨Nat.le_add_right _ _, rfl⟩
  · obtain ⟨-, hend⟩ | ⟨-, hend⟩ := tickEnd_cases s <;> cases hend.symm.trans ht
    · exact ⟨Nat.le_refl _, rfl⟩
    · simp at htx

theorem step_keeps_unsent {s t : State} (ht : step s = .next t) (htx : t.logs.txlog = s.logs.txlog)
    (hkeep : ¬ dropsOutput s) :
    s.transport.accLen ≤ t.transport.accLen ∧ t.transport.lastFlush = s.transport.lastFlush := by
  by_cases hcore : nextTurn s.env = .core
  · rw [step_of_turn hcore] at ht
    exact coreStep_keeps_unsent (s := takeTurn s) ht htx fun hdrop => hkeep ⟨hcore, hdrop⟩
  · rw [transport_of_runTurn_of_ne_core hcore ht]
    exact ⟨Nat.le_refl _, rfl⟩

/-- Settles O44: neither the unsent bytes nor the time since the last flush become less. -/
theorem dueFlushStaysDue : Obligations.DueFlushStaysDue := by
  intro s t hnone hdue ht htx hkeep
  obtain ⟨hacc, hlast⟩ := step_keeps_unsent ht htx hkeep
  have hnow := (timeNeverDecreases s t ht).1
  have hnone' : t.cfg.timerBits = none := (extends_step ht).cfg ▸ hnone
  rw [(flushIsDueBySizeOrByTime s).1 hnone] at hdue
  rw [(flushIsDueBySizeOrByTime t).1 hnone', hlast]
  omega

/-- More than 64 bytes unsent, and the core loop is outside `process` (R93). -/
theorem phase_ne_processing_of_backlog {s : State} (h : Inv s) (hacc : 64 < s.transport.accLen) :
    s.transport.phase ≠ .processing := by
  intro hp
  have hgate := ((phaseOk_processing_iff hp).1 h.phase).1
  exact absurd hgate (Nat.not_le.2 hacc)

/-- Above the gate a core step reads nothing (R93). -/
theorem coreStep_reads_nothing {s t : State} (h : Inv s) (hacc : 64 < s.transport.accLen)
    (ht : coreStep s = .next t) : t.env.rxq = s.env.rxq ∧ t.transport.chunk = s.transport.chunk := by
  have hout := phase_ne_processing_of_backlog h hacc
  obtain ⟨-, heq⟩ | ⟨b, bs, hp, -, -⟩ | ⟨hp, -, -⟩ | ⟨-, heq⟩ := coreStep_cases s
  · cases heq.symm.trans ht
    obtain ⟨-, -, hgate, -⟩ | ⟨-, -, hbegin⟩ | ⟨-, hbegin⟩ := tickBegin_cases s
    · exact absurd hgate (Nat.not_le.2 hacc)
    · exact hbegin ▸ ⟨rfl, rfl⟩
    · exact hbegin ▸ ⟨rfl, rfl⟩
  · exact absurd hp hout
  · exact absurd hp hout
  · rw [heq] at ht
    obtain ⟨-, hend⟩ | ⟨-, hend⟩ := tickEnd_cases s <;> cases hend.symm.trans ht <;> exact ⟨rfl, rfl⟩

/-- Settles O38: above the gate the loop is outside `process`, so there is no byte to run, and a tick reads none. -/
theorem backpressureStopsInboundReads : Obligations.BackpressureStopsInboundReads := by
  intro s t h hacc ht
  have hout := phase_ne_processing_of_backlog h hacc
  obtain ⟨hchunk, -⟩ := (phaseOk_outside_iff hout).1 h.phase
  have hcursor := (cursorCountsEngineBytes s t ht).2 fun hrun => hout hrun.2.1
  by_cases hcore : nextTurn s.env = .core
  · rw [step_of_turn hcore] at ht
    obtain ⟨hrxq, hkept⟩ := coreStep_reads_nothing (inv_takeTurn h) hacc ht
    exact ⟨by rw [hrxq]; exact List.prefix_rfl, hkept.trans hchunk, hcursor⟩
  · have hkept := congrArg Transport.chunk (transport_of_runTurn_of_ne_core hcore ht)
    exact ⟨rxq_prefix_of_runTurn_of_ne_core (s := takeTurn s) hcore ht, hkept.trans hchunk, hcursor⟩

/-- Settles O59: the only fault is the overflow at the end of a call, and the invariant leaves room there. -/
theorem everyStepCompletesUnderTheInvariant : Obligations.EveryStepCompletesUnderTheInvariant := by
  intro s h
  obtain ⟨-, hnext⟩ | ⟨⟨-, hp, -, -, hfull⟩, -⟩ := step_outcome s
  · exact hnext
  · exact absurd (room_of_inv h hp) (Nat.not_le.2 hfull)

/-! ### The core steps of a tick

`Commutes f g`: the update `f` may be made before `g` or after it. The queue of turns is such an update for every core
step, and the rest of the chunk is one for every byte, so both can be put in place beforehand. -/

/-- Making the update `f` first gives the answer of `g` with `f` made last; a fault or a refusal is the same. -/
def Commutes (f : State → State) (g : State → Result) : Prop :=
  ∀ s, g (f s) = andThen (g s) (fun t => .next (f t))

theorem Commutes.andThen {f : State → State} {g h : State → Result} (hg : Commutes f g) (hh : Commutes f h) :
    Commutes f (fun s => Machine.andThen (g s) h) := by
  intro s
  simp only [hg s, andThen_assoc, andThen_next]
  exact congrArg _ (funext hh)

/-- The queue of the coming turns, and the number of the turns so far. -/
def setTurns (ts : List Turn) (n : Nat) (s : State) : State :=
  { s with env := { s.env with turns := ts, turnNo := n } }

theorem takeTurn_eq_setTurns (s : State) : takeTurn s = setTurns s.env.turns.tail (s.env.turnNo + 1) s := rfl

/-- An update that no instruction sees commutes with a byte. -/
theorem commutes_engineByte {f : State → State} (b : Byte) (hengine : ∀ s, (f s).engine = s.engine)
    (hbitbang : ∀ r o p s, countByte (afterBitbang r o p (f s)) = f (countByte (afterBitbang r o p s)))
    (hshift : ∀ c n s, countByte (afterShiftHeader c n (f s)) = f (countByte (afterShiftHeader c n s)))
    (hdata : ∀ k c s, countByte (afterDataByte b k c (f s)) = f (countByte (afterDataByte b k c s))) :
    Commutes f (engineByte b) := by
  intro s
  obtain ⟨r, o, p, hs, hb, heq⟩ | ⟨c, n, hs, hb, heq⟩ | ⟨k, c, hs, heq⟩ := engineByte_cases b s <;>
    rw [heq, andThen_next]
  · rw [engineByte_bitbang ((hengine s).trans hs) hb, hbitbang]
  · rw [engineByte_shift ((hengine s).trans hs) hb, hshift]
  · rw [engineByte_data ((hengine s).trans hs), hdata]

theorem afterDataByte_setChunk (d : Byte) (k : BurstLen) (c : Bool) (bs : List Byte) (s : State) :
    afterDataByte d k c (setChunk bs s) = setChunk bs (afterDataByte d k c s) := by
  unfold afterDataByte
  rw [shiftExchange_congr (s₁ := setChunk bs s) (s₂ := s) rfl rfl (fun _ => rfl),
    shiftEvents_congr (s₁ := setChunk bs s) (s₂ := s) rfl rfl (fun _ => rfl)]
  rfl

theorem afterDataByte_setTurns (d : Byte) (k : BurstLen) (c : Bool) (ts : List Turn) (n : Nat) (s : State) :
    afterDataByte d k c (setTurns ts n s) = setTurns ts n (afterDataByte d k c s) := by
  unfold afterDataByte
  rw [shiftExchange_congr (s₁ := setTurns ts n s) (s₂ := s) rfl rfl (fun _ => rfl),
    shiftEvents_congr (s₁ := setTurns ts n s) (s₂ := s) rfl rfl (fun _ => rfl)]
  rfl

theorem commutes_setChunk_engineByte (bs : List Byte) (b : Byte) : Commutes (setChunk bs) (engineByte b) :=
  commutes_engineByte b (fun _ => rfl) (fun _ _ _ _ => rfl) (fun _ _ _ => rfl)
    (fun k c s => congrArg countByte (afterDataByte_setChunk b k c bs s))

theorem commutes_setTurns_engineByte (ts : List Turn) (n : Nat) (b : Byte) :
    Commutes (setTurns ts n) (engineByte b) :=
  commutes_engineByte b (fun _ => rfl) (fun _ _ _ _ => rfl) (fun _ _ _ => rfl)
    (fun k c s => congrArg countByte (afterDataByte_setTurns b k c ts n s))

theorem commutes_setTurns_appendByte (ts : List Turn) (n : Nat) (v : Byte) :
    Commutes (setTurns ts n) (appendByte v) := by
  intro s
  unfold appendByte memWrite
  by_cases h : s.transport.accLen < s.cfg.accCap
  · rw [if_pos h, if_pos (by exact h)]; rfl
  · rw [if_neg h, if_neg (by exact h)]; rfl

theorem commutes_setTurns_appendBytes (ts : List Turn) (n : Nat) :
    ∀ vs : List Byte, Commutes (setTurns ts n) (appendBytes vs)
  | [] => fun _ => rfl
  | v :: vs => (commutes_setTurns_appendByte ts n v).andThen (commutes_setTurns_appendBytes ts n vs)

theorem commutes_setTurns_processEnd (ts : List Turn) (n : Nat) : Commutes (setTurns ts n) processEnd :=
  fun s => (commutes_setTurns_appendBytes ts n s.transport.out).andThen (fun _ => rfl) s

theorem tickBegin_setTurns (ts : List Turn) (n : Nat) (s : State) :
    tickBegin (setTurns ts n s) = setTurns ts n (tickBegin s) := by
  obtain ⟨hlink, hrx, hgate, heq⟩ | ⟨hlink, hshut, heq⟩ | ⟨hlink, heq⟩ := tickBegin_cases s <;> rw [heq]
  · exact tickBegin_of_mayRead (s := setTurns ts n s) hlink ((mayRead_iff _).2 ⟨hrx, hgate⟩)
  · exact tickBegin_of_not_mayRead (s := setTurns ts n s) hlink (Bool.eq_false_iff.2 (mt (mayRead_iff s).1 hshut))
  · exact tickBegin_of_link_down (s := setTurns ts n s) hlink

theorem commutes_setTurns_tickEnd (ts : List Turn) (n : Nat) : Commutes (setTurns ts n) tickEnd := by
  intro s
  obtain ⟨hno, heq⟩ | ⟨hyes, heq⟩ := tickEnd_cases s <;> rw [heq]
  · exact tickEnd_of_not_due (s := setTurns ts n s) (Bool.and_eq_false_iff.1 hno)
  · obtain ⟨hdue, hready⟩ := Bool.and_eq_true_iff.1 hyes
    exact tickEnd_of_due (s := setTurns ts n s) hdue hready

/-- No core step looks at the queue of turns. -/
theorem commutes_setTurns_coreStep (ts : List Turn) (n : Nat) : Commutes (setTurns ts n) coreStep := by
  intro s
  obtain ⟨hp, heq⟩ | ⟨b, bs, hp, hc, heq⟩ | ⟨hp, hc, heq⟩ | ⟨hp, heq⟩ := coreStep_cases s <;> rw [heq]
  · exact (coreStep_betweenTicks (s := setTurns ts n s) hp).trans (congrArg _ (tickBegin_setTurns ts n s))
  · exact (coreStep_of_byte (s := setTurns ts n s) hp hc).trans
      (commutes_setTurns_engineByte ts n b (setChunk bs s))
  · exact (coreStep_endOfProcess (s := setTurns ts n s) hp hc).trans (commutes_setTurns_processEnd ts n s)
  · exact (coreStep_flushing (s := setTurns ts n s) hp).trans (commutes_setTurns_tickEnd ts n s)

/-- `k` core steps with no turn taken. -/
def coreSteps : Nat → State → Result
  | 0, s => .next s
  | k + 1, s => andThen (coreStep s) (coreSteps k)

theorem coreSteps_one (s : State) : coreSteps 1 s = coreStep s := by
  rw [coreSteps]
  cases coreStep s <;> rfl

section
variable {M : Host.Core} {k : Nat} {s : M.State}

theorem run_succ_of_next {t : M.State} (h : M.step s = .next t) : M.run (k + 1) s = M.run k t := by
  rw [Host.Core.run, h]

theorem run_succ_of_fault {e : M.Fault} (h : M.step s = .fault e) : M.run (k + 1) s = .fault e := by
  rw [Host.Core.run, h]

theorem run_succ_of_refused {e : M.Refusal} (h : M.step s = .refused e) : M.run (k + 1) s = .refused e := by
  rw [Host.Core.run, h]

end

/-- The machine's run, in the model's own types. -/
def runSteps (k : Nat) (s : State) : Result := Host.Core.run Sys2Proof.core k s

theorem runSteps_zero (s : State) : runSteps 0 s = .next s := rfl

theorem runSteps_succ (k : Nat) (s : State) : runSteps (k + 1) s = andThen (step s) (runSteps k) := by
  cases h : step s with
  | next t => exact run_succ_of_next (M := Sys2Proof.core) h
  | fault e => exact run_succ_of_fault (M := Sys2Proof.core) h
  | refused e => exact run_succ_of_refused (M := Sys2Proof.core) h

/-- With the core loop's turns at the head of the queue, the machine's run makes the core steps, from the state that has
taken all these turns. -/
theorem runSteps_eq_coreSteps (rest : List Turn) : ∀ (k : Nat) (s : State),
    s.env.turns = List.replicate k .core ++ rest →
    runSteps k s = coreSteps k (setTurns rest (s.env.turnNo + k) s)
  | 0, s, hq => by
    have hs : setTurns rest s.env.turnNo s = s := congrArg (setTurns · s.env.turnNo s) hq.symm
    rw [runSteps_zero, coreSteps, Nat.add_zero, hs]
  | k + 1, s, hq => by
    have hturn : nextTurn s.env = .core := by rw [nextTurn, hq]; rfl
    have htake : takeTurn s = setTurns (List.replicate k .core ++ rest) (s.env.turnNo + 1) s := by
      rw [takeTurn_eq_setTurns, hq]; rfl
    have hrest (t : State) : runSteps k (setTurns (List.replicate k .core ++ rest) (s.env.turnNo + 1) t) =
        coreSteps k (setTurns rest (s.env.turnNo + (k + 1)) t) := by
      rw [runSteps_eq_coreSteps rest k _ rfl, Nat.add_comm k, ← Nat.add_assoc]
      rfl
    rw [runSteps_succ, step_of_turn hturn, runTurn, htake, coreSteps, commutes_setTurns_coreStep,
      commutes_setTurns_coreStep, andThen_assoc, andThen_assoc]
    exact congrArg _ (funext hrest)

/-- Inside `process` the core steps run the chunk byte by byte, as one call does (R81). -/
theorem coreSteps_chunk (k : Nat) : ∀ (bs : List Byte) (s : State), s.transport.phase = .processing →
    s.transport.chunk = bs → coreSteps (bs.length + k) s = andThen (engineBytes bs (setChunk [] s)) (coreSteps k)
  | [], s, _, hc => by
    have hs : setChunk [] s = s := congrArg (setChunk · s) hc.symm
    rw [List.length_nil, Nat.zero_add, engineBytes_nil, andThen_next, hs]
  | b :: bs, s, hp, hc => by
    obtain ⟨t, ht⟩ := engineByte_completes b (setChunk [] s)
    obtain ⟨outs, hemit⟩ := engineByte_emitted ht
    have htail : engineByte b (setChunk bs s) = .next (setChunk bs t) := by
      have := commutes_setChunk_engineByte bs b (setChunk [] s)
      rwa [ht] at this
    have hempty : t.transport.chunk = [] := by rw [hemit.transport]; rfl
    have hphase : t.transport.phase = .processing := by rw [hemit.transport]; exact hp
    have hback : setChunk [] (setChunk bs t) = t := congrArg (setChunk · t) hempty.symm
    rw [List.length_cons, Nat.add_right_comm, coreSteps, coreStep_of_byte hp hc, htail, andThen_next,
      coreSteps_chunk k bs (setChunk bs t) hphase rfl, hback, engineBytes_cons, ht, andThen_next]

/-- After a call of `process` come its end and the end of the tick (R91). -/
theorem coreSteps_endOfProcess {s : State} (hp : s.transport.phase = .processing) (hc : s.transport.chunk = []) :
    coreSteps 2 s = andThen (processEnd s) tickEnd := by
  rw [coreSteps, coreStep_endOfProcess hp hc]
  obtain ⟨-, m, heq⟩ | ⟨-, -, heq⟩ := processEnd_cases s <;> rw [heq]
  · exact (coreSteps_one _).trans (coreStep_flushing rfl)
  · rfl

/-- The core steps of a tick are the service tick, in each of its three ways (R91). -/
theorem coreSteps_tick {s : State} (hp : s.transport.phase = .betweenTicks) :
    coreSteps (tickSteps s) s = serviceTick s := by
  unfold tickSteps serviceTick
  cases hlink : s.env.linkActive
  · exact (coreSteps_one s).trans
      ((coreStep_betweenTicks hp).trans (congrArg _ (tickBegin_of_link_down hlink)))
  cases hread : mayRead s
  · change coreSteps 2 s = tickEnd (setPhase .flushing s)
    rw [coreSteps, coreStep_betweenTicks hp, andThen_next, tickBegin_of_not_mayRead hlink hread, coreSteps_one,
      coreStep_flushing rfl]
  · change coreSteps ((s.env.rxq.take (chunkSize s)).length + 3) s =
      andThen (readAndProcess (chunkSize s) s) tickEnd
    obtain ⟨t, outs, ht, hemit, -⟩ :=
      engineBytes_emitted (s.env.rxq.take (chunkSize s)) (setChunk [] (readChunk (chunkSize s) s))
    rw [coreSteps, coreStep_betweenTicks hp, andThen_next, tickBegin_of_mayRead hlink hread,
      coreSteps_chunk 2 (s.env.rxq.take (chunkSize s)) (readChunk (chunkSize s) s) rfl rfl, readAndProcess, ht,
      andThen_next, andThen_next, coreSteps_endOfProcess (by rw [hemit.transport]; rfl) (by rw [hemit.transport]; rfl)]

/-- Settles O56: the turns are taken beforehand, and the core steps of the tick are the service tick. -/
theorem coreStepsMakeUpTheServiceTick : Obligations.CoreStepsMakeUpTheServiceTick :=
  fun s rest hp hq => (runSteps_eq_coreSteps rest (tickSteps s) s hq).trans
    (coreSteps_tick (s := setTurns rest (s.env.turnNo + tickSteps s) s) hp)

end Sys2Proof.Machine
end

section
/-! PROOF. The obligations about the lifecycle events (spec/60_exceptions.md): which of them run `reset()`, what a
second `reset()` adds, and that an event and the end of a tick may be taken in either order. -/

namespace Sys2Proof.Machine

/-! ### Which events reset -/

theorem eventResets_iff (c : Config) (e : Lifecycle) :
    eventResets c e = true ↔
      e = .busReset ∨ e = .mount ∨ e = .resume ∨ c.resetOnUnmountSuspend = true := by
  cases e <;> simp [eventResets]

theorem takeEvent_of_resets {e : Lifecycle} {s : State} (h : eventResets s.cfg e = true) :
    takeEvent e s = engineReset s := if_pos h

theorem takeEvent_of_not_resets {e : Lifecycle} {s : State} (h : eventResets s.cfg e = false) :
    takeEvent e s = s := if_neg (Bool.eq_false_iff.1 h)

/-- Settles O31: the step is the event's own turn, and `eventResets` says which of the two answers it gives. -/
theorem lifecycleEventsRunReset : Obligations.LifecycleEventsRunReset := by
  intro s e hturn
  have hstep : step s = .next (takeEvent e (takeTurn s)) := step_of_turn hturn
  refine ⟨fun hreset => ?_, fun he hparam => ?_⟩
  · rw [hstep, takeEvent_of_resets (s := takeTurn s) ((eventResets_iff s.cfg e).2 hreset)]
  · have hkeep : eventResets s.cfg e = false := by
      obtain rfl | rfl := he <;> exact hparam
    rw [hstep, takeEvent_of_not_resets (s := takeTurn s) hkeep]

/-! ### A second reset -/

/-- In Idle with the output disabled and the five signals low, only the masked write of `reset()` is left (R120). -/
theorem engineReset_of_quiet {s : State} (hengine : s.engine = .idle) (hoe : s.pins.oe = false)
    (hlatch : s.pins.outLatch = 0b00000#5) : engineReset s = logEvent (.w 0b11111#5 0b00000#5) s := by
  have hidle : setEngine .idle s = s := by rw [← hengine]; rfl
  have hoff : setOutputEnable false s = s := by rw [← hoe, setOutputEnable_same]
  have hlow : (s.pins.outLatch &&& ~~~maskAll) ||| (0b00000#5 &&& maskAll) = s.pins.outLatch := by
    rw [hlatch]; decide
  rw [engineReset, hidle, hoff, pinWrite, hlow]
  rfl

/-- Settles O32: the first reset leaves Idle, the output disabled and the five signals low. -/
theorem secondResetAddsOneWrite : Obligations.SecondResetAddsOneWrite := fun s =>
  engineReset_of_quiet (by rw [engineReset_state]) (by rw [engineReset_state]) (by rw [engineReset_state])

/-! ### An event and the end of a tick -/

/-- The flush reads only fields that `reset()` leaves alone, and writes others than `reset()` does (R107, R121). -/
theorem commutes_engineReset_tickEnd : Commutes engineReset tickEnd := by
  intro s
  obtain ⟨hno, heq⟩ | ⟨hyes, heq⟩ := tickEnd_cases s <;> simp only [heq, andThen_next, engineReset_state]
  · exact tickEnd_of_not_due (Bool.and_eq_false_iff.1 hno)
  · obtain ⟨hdue, hready⟩ := Bool.and_eq_true_iff.1 hyes
    exact tickEnd_of_due hdue hready

/-- Settles O34: the end of the tick keeps the configuration, so the event resets after it exactly if it resets before
it, and a reset commutes with it. -/
theorem eventsAndTheFlushCommute : Obligations.EventsAndTheFlushCommute := by
  intro e s t ht
  have hcfg : t.cfg = s.cfg := (extends_tickEnd ht).cfg
  obtain ⟨hreset, heq⟩ | ⟨hkeep, heq⟩ := takeEvent_cases e s
  · rw [heq, takeEvent_of_resets (hcfg ▸ hreset), commutes_engineReset_tickEnd s, ht, andThen_next]
  · rw [heq, takeEvent_of_not_resets (hcfg ▸ hkeep), ht]

end Sys2Proof.Machine
end

section
/-! PROOF. The obligation about `reset()` from any state (spec/70_reset_and_hazards.md). -/

namespace Sys2Proof.Machine

/-- Settles O30: the state `reset()` leaves is the old one with the engine, four pin fields and the trace written, so
each written value and each kept field is read off that record. -/
theorem resetFromAnyState : Obligations.ResetFromAnyState := by
  intro s
  rw [engineReset_state]
  exact ⟨rfl, rfl, rfl, rfl, rfl, rfl, rfl, rfl, rfl, rfl, rfl, rfl⟩

end Sys2Proof.Machine
end
